-- ==== Sys2Proof/Word.lean ====
section
/-!
DEFINITION. The cell and byte type, and the two electrical levels of a wire.
-/
namespace Sys2Proof

/-- The unit of input and of both memories: eight bits (30_encoding.md R57, 20_memory.md R39). -/
abbrev Byte := BitVec 8

/-- An electrical level: of INTN (10_state.md R19) and of the serial clock (10_state.md R17).
For INTN, `low` is asserted, done, idle; `high` is de-asserted, busy (00_scope.md R9). -/
inductive Level where
  | low
  | high
deriving DecidableEq, Repr

end Sys2Proof
end

