-- ==== Sys2Proof/Config.lean ====
section
/-!
DEFINITION. What an implementation fixes: the parameters of 00_scope.md R7 as plain data, and the open
parameters of R8 as free values (constants without a body).
-/
namespace Sys2Proof

/-- A command set that a date entry can select (10_state.md R13 without `Unknown`):
the classifier answers one of these two (43_classifier.md R107). -/
inductive Vocabulary where
  /-- Set0, the boot-ROM command vocabulary. -/
  | set0
  /-- Set1, the firmware command vocabulary. -/
  | set1
deriving DecidableEq, Repr

/-- The parameters of 00_scope.md R7. A state carries its own (log 3), so a statement about every state is
one about every assignment; the defaults are `Config.defaults`. -/
structure Params where
  /-- `CMD0_NULL` -/
  cmd0Null : Byte
  /-- `CMD0_SET_PARAMETER` -/
  cmd0SetParameter : Byte
  /-- `CMD0_DISPLAY_OFF` -/
  cmd0DisplayOff : Byte
  /-- `CMD0_DISPLAY_ON` -/
  cmd0DisplayOn : Byte
  /-- `CMD0_DRAW_SCENE` -/
  cmd0DrawScene : Byte
  /-- `CMD1_FRAME_BEGIN` -/
  cmd1FrameBegin : Byte
  /-- `CMD1_FRAME_DATA` -/
  cmd1FrameData : Byte
  /-- `CMD1_FRAME_END` -/
  cmd1FrameEnd : Byte
  /-- `SCENE_SPLASH` -/
  sceneSplash : Byte
  /-- `DATE_TABLE`: the entry strings, in table order, each with the set it selects. -/
  dateTable : List (List Byte × Vocabulary)
  /-- `MISO_PLACEHOLDER` -/
  misoPlaceholder : Byte
deriving DecidableEq, Repr

namespace Config

/-- `FB_INIT` (00_scope.md R8, D9): the power-on contents of the framebuffer, by address. A free value (log 4). -/
opaque fbInit : Nat → Byte

/-- `HDR_INIT` (00_scope.md R8, D9): the power-on contents of the header capture, by address. A free value (log 4). -/
opaque hdrInit : Nat → Byte

/-- `SPLASH_RENDER` (00_scope.md R8, D4): from the whole framebuffer's bytes in address order and a cell's
address, the upper six bits of the value the Splash scene gives that cell, or `none` where it leaves the
cell alone. The two low bits of a changed cell are zero, which is all R8 says of it. A free value (log 5). -/
opaque splashPixel : List Byte → Nat → Option (BitVec 6)

end Config
end Sys2Proof
end

