-- ==== Sys2Proof/Machine/Constants.lean ====
section
/-!
DEFINITION. The fixed constants of 00_scope.md R6 and the default parameters of R7.
-/
namespace Sys2Proof.Config

/-- `ROWS`: visible rows (00_scope.md R6). -/
abbrev rows : Nat := 172
/-- `COLS`: columns (R6). -/
abbrev cols : Nat := 148
/-- `BOTTOM_PAD`: padding bytes before the visible rows of a column (R6). -/
abbrev bottomPad : Nat := 16
/-- `TOP_PAD`: padding bytes after the visible rows, the trigger among them (R6). -/
abbrev topPad : Nat := 17
/-- `COLUMN_BYTES`: data bytes of one line (R6). -/
abbrev columnBytes : Nat := bottomPad + rows + topPad
/-- `ROW_START`: the first value of the row cursor (R6). -/
abbrev rowStart : Int := (rows : Int) + bottomPad - 1
/-- `HDR_CAP`: capacity of the header capture (R6). -/
abbrev hdrCap : Nat := 256
/-- `HDR_SKIP`: bytes skipped at the start of the header (R6). -/
abbrev hdrSkip : Nat := 2
/-- `SCLK_THRESHOLD`: DONE is asserted after more than this many counted edges (R6). -/
abbrev sclkThreshold : Nat := 50
/-- `PARAM_BYTES`: bytes of a parameter (R6). -/
abbrev paramBytes : Nat := 4
/-- Number of framebuffer cells, `ROWS x COLS` (20_memory.md R39). -/
abbrev fbSize : Nat := rows * cols

/-- `COLOR_BLACK` (R6). -/
def colorBlack : Byte := 0x00#8
/-- `COLOR_WHITE` (R6). -/
def colorWhite : Byte := 0xFC#8
/-- `COLOR_RED` (R6). -/
def colorRed : Byte := 0xC0#8
/-- `COLOR_GREEN` (R6). -/
def colorGreen : Byte := 0x30#8
/-- `COLOR_BLUE` (R6). -/
def colorBlue : Byte := 0x0C#8

/-- `SCENE_BLACK` (R6). -/
def sceneBlack : Byte := 0x00#8
/-- `SCENE_UPDATE` (R6). -/
def sceneUpdate : Byte := 0x02#8
/-- `SCENE_ERROR` (R6). -/
def sceneError : Byte := 0x03#8

/-- The five bytes "Date:" that mark a date string (30_encoding.md R68). -/
def dateMark : List Byte := [0x44#8, 0x61#8, 0x74#8, 0x65#8, 0x3A#8]

/-- "Date: Dec 10 2014 08:30" (30_encoding.md R69, first entry). -/
def dateSet0 : List Byte :=
  [0x44#8, 0x61#8, 0x74#8, 0x65#8, 0x3A#8, 0x20#8, 0x44#8, 0x65#8, 0x63#8, 0x20#8, 0x31#8, 0x30#8] ++
  [0x20#8, 0x32#8, 0x30#8, 0x31#8, 0x34#8, 0x20#8, 0x30#8, 0x38#8, 0x3A#8, 0x33#8, 0x30#8]

/-- "Date: Sep 12 2014 16:56:21" (30_encoding.md R69, second entry). -/
def dateSet1 : List Byte :=
  [0x44#8, 0x61#8, 0x74#8, 0x65#8, 0x3A#8, 0x20#8, 0x53#8, 0x65#8, 0x70#8, 0x20#8, 0x31#8, 0x32#8, 0x20#8] ++
  [0x32#8, 0x30#8, 0x31#8, 0x34#8, 0x20#8, 0x31#8, 0x36#8, 0x3A#8, 0x35#8, 0x36#8, 0x3A#8, 0x32#8, 0x31#8]

/-- The default parameters (00_scope.md R7; decisions D1, D2, D3, D5, D7; log 3). DESIGN CHOICE of the spec. -/
def defaults : Params where
  cmd0Null := 0x00#8
  cmd0SetParameter := 0x01#8
  cmd0DisplayOff := 0x02#8
  cmd0DisplayOn := 0x03#8
  cmd0DrawScene := 0x04#8
  cmd1FrameBegin := 0x00#8
  cmd1FrameData := 0x01#8
  cmd1FrameEnd := 0x02#8
  sceneSplash := 0x01#8
  dateTable := [(dateSet0, .set0), (dateSet1, .set1)]
  misoPlaceholder := 0x00#8

end Sys2Proof.Config
end

