-- ==== Sys2Proof/Syntax.lean ====
section
/-!
DEFINITION. The device's instructions, one constructor per row of spec/opcode_table.json; the two registers
that choose what a byte means; and the input events.
-/
namespace Sys2Proof

/-- The Protocol State (10_state.md R12), the device's sequencing register. -/
inductive ProtocolState where
  | programming
  | acceptingCommand
  | acceptingParameter
  | acceptingSceneByte
  | acceptingLineNumber
  | acceptingData
deriving DecidableEq, Repr

/-- The Command Set register (10_state.md R13). -/
inductive CmdSet where
  | unknown
  | set0
  | set1
deriving DecidableEq, Repr

/-- The register value that records a classifier result (43_classifier.md R107). -/
def Vocabulary.toCmdSet : Vocabulary → CmdSet
  | .set0 => .set0
  | .set1 => .set1

/-- One input event (00_scope.md R4). -/
inductive Event where
  /-- `Byte(b)`: one received byte. -/
  | byte (b : Byte)
  /-- `CS(a)`: the chip-select input; `true` is active (line low). -/
  | chipSelect (active : Bool)
  /-- `SCLK(l)`: the serial-clock input. -/
  | clock (level : Level)
  /-- `RST(r)`: the reset input; `true` is asserted (held in reset). -/
  | reset (asserted : Bool)
  /-- `Render`: the host asks for the current frame. -/
  | render
deriving DecidableEq, Repr

/-- The instructions: one byte each, named by the state in which the byte arrives and, for a command byte,
by the command set (30_encoding.md R57 to R63). A constructor takes the byte where the row leaves it free. -/
inductive Instr where
  /-- `NULL` (41_set0_commands.md R84). -/
  | null
  /-- `SET_PARAMETER`, the command byte (R85). -/
  | setParameter
  /-- `DISPLAY_OFF` (R86). -/
  | displayOff
  /-- `DISPLAY_ON` (R87). -/
  | displayOn
  /-- `DRAW_SCENE`, the command byte (R88). -/
  | drawScene
  /-- `UNKNOWN0`, a Set0 command byte that is none of the five opcodes (R90). -/
  | unknown0 (b : Byte)
  /-- `FRAME_BEGIN` (42_set1_commands.md R97). -/
  | frameBegin
  /-- `FRAME_DATA`, the command byte (R98). -/
  | frameData
  /-- `FRAME_END` (R99). -/
  | frameEnd
  /-- `UNKNOWN1`, a Set1 command byte that is none of the three opcodes (R100). -/
  | unknown1 (b : Byte)
  /-- `SCENE_BLACK`, a scene byte (41_set0_commands.md R91). -/
  | sceneBlack
  /-- `SCENE_SPLASH` (R92). -/
  | sceneSplash
  /-- `SCENE_UPDATE` (R93). -/
  | sceneUpdate
  /-- `SCENE_ERROR` (R94). -/
  | sceneError
  /-- `SCENE_UNKNOWN`, a scene byte that is none of the four ids (R95). -/
  | sceneUnknown (s : Byte)
  /-- `PROGRAMMING_BYTE` (40_byte_dispatch.md R78). -/
  | programmingByte (b : Byte)
  /-- `PARAM_BYTE` (R81). -/
  | paramByte (b : Byte)
  /-- `LINE_INDEX` (42_set1_commands.md R101). -/
  | lineIndex (c : Byte)
  /-- `LINE_DATA` (R102). -/
  | lineData (b : Byte)
deriving DecidableEq, Repr

end Sys2Proof
end

