-- ==== Sys2Proof/WellFormed.lean ====
section
/-!
DEFINITION. Which parameters and which instructions are well formed.
-/
namespace Sys2Proof

/-- The Set0 opcodes, in the order in which the executor tests them (41_set0_commands.md R83). -/
def Params.set0Opcodes (p : Params) : List Byte :=
  [p.cmd0Null, p.cmd0SetParameter, p.cmd0DisplayOff, p.cmd0DisplayOn, p.cmd0DrawScene]

/-- The Set1 opcodes, in the executor's order (42_set1_commands.md R96). -/
def Params.set1Opcodes (p : Params) : List Byte :=
  [p.cmd1FrameBegin, p.cmd1FrameData, p.cmd1FrameEnd]

/-- The scene ids, in the order in which the scene execution tests them (41_set0_commands.md R89). -/
def Params.sceneIds (p : Params) : List Byte :=
  [Config.sceneBlack, p.sceneSplash, Config.sceneUpdate, Config.sceneError]

/-- The constraint of 00_scope.md R7 (D30): the opcodes of one set are pairwise distinct, and so are the
four scene ids; there is no constraint across the sets. -/
def Params.wf (p : Params) : Bool :=
  decide p.set0Opcodes.Nodup && decide p.set1Opcodes.Nodup && decide p.sceneIds.Nodup

/-- An instruction is well formed when the byte it carries belongs to its row: the fallback rows take
exactly the bytes that no other row of their mode takes (30_encoding.md R61 to R64). -/
def Instr.wf (p : Params) : Instr → Bool
  | .null => true
  | .setParameter => true
  | .displayOff => true
  | .displayOn => true
  | .drawScene => true
  | .unknown0 b => !p.set0Opcodes.contains b
  | .frameBegin => true
  | .frameData => true
  | .frameEnd => true
  | .unknown1 b => !p.set1Opcodes.contains b
  | .sceneBlack => true
  | .sceneSplash => true
  | .sceneUpdate => true
  | .sceneError => true
  | .sceneUnknown s => !p.sceneIds.contains s
  | .programmingByte _ => true
  | .paramByte _ => true
  | .lineIndex _ => true
  | .lineData _ => true

end Sys2Proof
end

