-- ==== Sys2Proof/Decode.lean ====
section
/-!
DEFINITION. The decoder, total on every byte in every mode, and the encoder.
-/
namespace Sys2Proof

/-- What decoding a byte reads besides the byte: the sequencing register (40_byte_dispatch.md R76), for a
command byte the command set (R79), and for a scene byte the pending command (41_set0_commands.md R83). -/
structure DecodeMode where
  state : ProtocolState
  cmdset : CmdSet
  cmd : Byte
deriving DecidableEq, Repr

/-- The two cases in which a byte is none of the table's instructions. -/
inductive DecodeReject where
  /-- A command byte while the command set is Unknown: the fatal condition (40_byte_dispatch.md R80). -/
  | unknownCommandSet
  /-- A scene byte whose pending command is not DrawScene. No run reaches it (10_state.md R36); the executor
  is re-invoked with that command (40_byte_dispatch.md R82, 41_set0_commands.md R83; log 10). -/
  | sceneWithoutDrawScene
deriving DecidableEq, Repr

/-- A Set0 command byte: the first opcode that equals it (41_set0_commands.md R83, 30_encoding.md R61). -/
def decodeSet0 (p : Params) (b : Byte) : Instr :=
  if b = p.cmd0Null then .null
  else if b = p.cmd0SetParameter then .setParameter
  else if b = p.cmd0DisplayOff then .displayOff
  else if b = p.cmd0DisplayOn then .displayOn
  else if b = p.cmd0DrawScene then .drawScene
  else .unknown0 b

/-- A Set1 command byte (42_set1_commands.md R96, 30_encoding.md R62). -/
def decodeSet1 (p : Params) (b : Byte) : Instr :=
  if b = p.cmd1FrameBegin then .frameBegin
  else if b = p.cmd1FrameData then .frameData
  else if b = p.cmd1FrameEnd then .frameEnd
  else .unknown1 b

/-- A scene byte (41_set0_commands.md R89, 30_encoding.md R63). -/
def decodeScene (p : Params) (s : Byte) : Instr :=
  if s = Config.sceneBlack then .sceneBlack
  else if s = p.sceneSplash then .sceneSplash
  else if s = Config.sceneUpdate then .sceneUpdate
  else if s = Config.sceneError then .sceneError
  else .sceneUnknown s

/-- The decoder (40_byte_dispatch.md R76): exactly one row of the state table applies to a byte. -/
def decode (p : Params) (m : DecodeMode) (b : Byte) : Except DecodeReject Instr :=
  match m.state with
  | .programming => .ok (.programmingByte b)
  | .acceptingCommand =>
    match m.cmdset with
    | .set0 => .ok (decodeSet0 p b)
    | .set1 => .ok (decodeSet1 p b)
    | .unknown => .error .unknownCommandSet
  | .acceptingParameter => .ok (.paramByte b)
  | .acceptingSceneByte =>
    if decodeSet0 p m.cmd = .drawScene then .ok (decodeScene p b) else .error .sceneWithoutDrawScene
  | .acceptingLineNumber => .ok (.lineIndex b)
  | .acceptingData => .ok (.lineData b)

/-! The encoder, from the same tables (30_encoding.md R59, R61 to R63). -/

/-- The byte of an instruction. -/
def encode (p : Params) : Instr → Byte
  | .null => p.cmd0Null
  | .setParameter => p.cmd0SetParameter
  | .displayOff => p.cmd0DisplayOff
  | .displayOn => p.cmd0DisplayOn
  | .drawScene => p.cmd0DrawScene
  | .unknown0 b => b
  | .frameBegin => p.cmd1FrameBegin
  | .frameData => p.cmd1FrameData
  | .frameEnd => p.cmd1FrameEnd
  | .unknown1 b => b
  | .sceneBlack => Config.sceneBlack
  | .sceneSplash => p.sceneSplash
  | .sceneUpdate => Config.sceneUpdate
  | .sceneError => Config.sceneError
  | .sceneUnknown s => s
  | .programmingByte b => b
  | .paramByte b => b
  | .lineIndex c => c
  | .lineData b => b

/-- The state in which the bytes of an instruction's row arrive (the table's "state"). -/
def Instr.arrivalState : Instr → ProtocolState
  | .null => .acceptingCommand
  | .setParameter => .acceptingCommand
  | .displayOff => .acceptingCommand
  | .displayOn => .acceptingCommand
  | .drawScene => .acceptingCommand
  | .unknown0 _ => .acceptingCommand
  | .frameBegin => .acceptingCommand
  | .frameData => .acceptingCommand
  | .frameEnd => .acceptingCommand
  | .unknown1 _ => .acceptingCommand
  | .sceneBlack => .acceptingSceneByte
  | .sceneSplash => .acceptingSceneByte
  | .sceneUpdate => .acceptingSceneByte
  | .sceneError => .acceptingSceneByte
  | .sceneUnknown _ => .acceptingSceneByte
  | .programmingByte _ => .programming
  | .paramByte _ => .acceptingParameter
  | .lineIndex _ => .acceptingLineNumber
  | .lineData _ => .acceptingData

/-- The command set whose vocabulary a command byte belongs to; the other bytes do not depend on it
(30_encoding.md R60, 40_byte_dispatch.md R82). -/
def Instr.vocabulary : Instr → Option Vocabulary
  | .null => some .set0
  | .setParameter => some .set0
  | .displayOff => some .set0
  | .displayOn => some .set0
  | .drawScene => some .set0
  | .unknown0 _ => some .set0
  | .frameBegin => some .set1
  | .frameData => some .set1
  | .frameEnd => some .set1
  | .unknown1 _ => some .set1
  | .sceneBlack => none
  | .sceneSplash => none
  | .sceneUpdate => none
  | .sceneError => none
  | .sceneUnknown _ => none
  | .programmingByte _ => none
  | .paramByte _ => none
  | .lineIndex _ => none
  | .lineData _ => none

/-- The modes in which the decoder can answer an instruction: its state, its command set where it has one,
and for a scene byte the pending command DrawScene. -/
def Instr.fits (p : Params) (m : DecodeMode) (i : Instr) : Bool :=
  decide (m.state = i.arrivalState) &&
  (match i.vocabulary with
   | some v => decide (m.cmdset = v.toCmdSet)
   | none => true) &&
  (decide (i.arrivalState ≠ .acceptingSceneByte) || decide (decodeSet0 p m.cmd = .drawScene))

/-- The `match` and `mask` of an instruction's row in spec/opcode_table.json (with the default parameters). -/
def Instr.tableRow : Instr → Byte × Byte
  | .null => (0x00#8, 0xFF#8)
  | .setParameter => (0x01#8, 0xFF#8)
  | .displayOff => (0x02#8, 0xFF#8)
  | .displayOn => (0x03#8, 0xFF#8)
  | .drawScene => (0x04#8, 0xFF#8)
  | .unknown0 _ => (0x00#8, 0x00#8)
  | .frameBegin => (0x00#8, 0xFF#8)
  | .frameData => (0x01#8, 0xFF#8)
  | .frameEnd => (0x02#8, 0xFF#8)
  | .unknown1 _ => (0x00#8, 0x00#8)
  | .sceneBlack => (0x00#8, 0xFF#8)
  | .sceneSplash => (0x01#8, 0xFF#8)
  | .sceneUpdate => (0x02#8, 0xFF#8)
  | .sceneError => (0x03#8, 0xFF#8)
  | .sceneUnknown _ => (0x00#8, 0x00#8)
  | .programmingByte _ => (0x00#8, 0x00#8)
  | .paramByte _ => (0x00#8, 0x00#8)
  | .lineIndex _ => (0x00#8, 0x00#8)
  | .lineData _ => (0x00#8, 0x00#8)

/-! A table word on its own. One byte stands for up to a dozen rows, told apart by the mode (30_encoding.md R57,
R60), and a table word does not say the mode. It is read as a Set0 command byte when the table gives it eight
bits, and as a scene byte when the table gives it more (log 11). -/

/-- The mode in which a table word is read. DESIGN CHOICE (log 11). -/
def tableMode (nbits : Nat) : DecodeMode where
  state := if nbits ≤ 8 then .acceptingCommand else .acceptingSceneByte
  cmdset := .set0
  cmd := if nbits ≤ 8 then 0x00#8 else Config.defaults.cmd0DrawScene

/-- The byte of a table word: its low eight bits, the byte that arrives first (92_eei_decisions.md D26). -/
def tableByte (w : Nat) : Byte := BitVec.ofNat 8 w

/-- The instruction the decoder reads from a table word, with the default parameters. -/
def decodeTableWord (nbits w : Nat) : Option Instr :=
  match decode Config.defaults (tableMode nbits) (tableByte w) with
  | .ok i => some i
  | .error _ => none

end Sys2Proof
end

