-- ==== Sys2Proof/Machine/State.lean ====
section
/-!
DEFINITION. The state of the device, the outputs of an event, the reasons a step can stop, and the state
after power-on.
-/
namespace Sys2Proof.Machine

/-- Why a step of the model stops. Neither reason arises in a run from `State.reset`. -/
inductive Fault where
  /-- A visible byte of a line was to be written while the column cursor is outside `[0,148)`. Raised by
  LINE_DATA. Safe: the spec gives such an access no meaning (20_memory.md R44, U1; log 8). -/
  | fbOutOfRange
  /-- The classifier was to run while `hdr_len` is above 256, so it would read outside the HDR space. Raised by
  the clock event that leaves Programming. Safe (20_memory.md R41, R46; log 9). -/
  | hdrOutOfRange
deriving DecidableEq, Repr

/-- Why the model gives a step no meaning. -/
inductive Refusal where
  /-- An instruction whose meaning is not written yet; only an arm of `exec` may raise it, and none does. Safe. -/
  | notModelled (mnemonic : String)
deriving DecidableEq, Repr

/-- A diagnostic, by the spec's labels (60_exceptions.md R123). -/
inductive Diag where
  | dataWhileDeselected
  | unknownCommand (b : Byte)
  | unknownScene (s : Byte)
  | columnOutOfRange (b : Byte)
  | noDateString
  | dateNotRecognised (s : List Byte)
deriving DecidableEq, Repr

/-- One write of an output pin (60_exceptions.md R126, R127, R129). -/
inductive PinWrite where
  | intn (l : Level)
  | cdone (asserted : Bool)
deriving DecidableEq, Repr

/-- The colour of a pixel, eight bits a channel (45_pixel_mapper_render.md R118). -/
structure Rgb where
  red : Byte
  green : Byte
  blue : Byte
deriving DecidableEq, Repr

/-- What one event puts out (00_scope.md R5, 60_exceptions.md R127; log 2). -/
structure EventOutput where
  /-- The byte a `Byte` event returns (40_byte_dispatch.md R75). -/
  miso : Option Byte := none
  /-- The writes of INTN and DONE, in order. -/
  writes : List PinWrite := []
  /-- The diagnostics, in order (log 21). -/
  diags : List Diag := []
  /-- The pass of a `Render` that finds `redraw` set: the colour of every cell, in address order (log 19). -/
  pass : Option (List Rgb) := none
deriving DecidableEq, Repr

/-- The cells of a memory that have been written, by address, strictly rising (log 4). -/
abbrev Memory := List Host.Cell

/-- The device's nineteen fields (10_state.md R10), then the model's own three. -/
structure State where
  /-- Protocol State (R12). -/
  state : ProtocolState
  /-- Command Set (R13). -/
  cmdset : CmdSet
  /-- Pending Command (R22). -/
  cmd : Byte
  /-- Parameter (R23). -/
  param : BitVec 32
  /-- Parameter-byte offset (R24). -/
  paramOff : BitVec 2
  /-- Selected scene identifier (R25). -/
  scene : Byte
  /-- Column cursor (R26). -/
  col : Byte
  /-- Row cursor, the one signed quantity (R27; log 17). -/
  row : Int
  /-- Programming Header Capture, space HDR (R28). -/
  hdr : Memory
  /-- Filled length of the capture (R14). -/
  hdrLen : BitVec 9
  /-- Chip-select latch, `true` = active (R15). -/
  cs : Bool
  /-- Reset latch, `true` = asserted (R16). -/
  rst : Bool
  /-- Serial-clock latch (R17). -/
  sclk : Level
  /-- Clock-edge counter, saturating at 51 (R18). -/
  sclkCnt : BitVec 6
  /-- Level driven on INTN (R19). -/
  intn : Level
  /-- DONE, `true` = asserted (R20). -/
  cdone : Bool
  /-- Redraw-pending flag (R21). -/
  redraw : Bool
  /-- Framebuffer, space FB (R29). -/
  fb : Memory
  /-- The sticky flag of the fatal condition (R30). -/
  fault : Bool
  /-- The model's: the implementation parameters of 00_scope.md R7. No event writes it (log 3). -/
  cfg : Params
  /-- The model's: the events the host has yet to deliver, oldest first (00_scope.md R4; log 1). -/
  inputs : List Event
  /-- The model's: the outputs of the last event (log 2). -/
  out : EventOutput
deriving DecidableEq, Repr

/-- The state at device construction (10_state.md R38, 70_reset_and_hazards.md R145; log 6), with the default
parameters and no event pending. -/
def State.reset : State where
  state := .programming
  cmdset := .unknown
  cmd := 0x00#8
  param := 0#32
  paramOff := 0#2
  scene := 0x00#8
  col := 0x00#8
  row := 0
  hdr := []
  hdrLen := 0#9
  cs := false
  rst := false
  sclk := .low
  sclkCnt := 0#6
  intn := .high
  cdone := false
  redraw := false
  fb := []
  fault := false
  cfg := Config.defaults
  inputs := []
  out := {}

/-- What decoding the next byte reads (40_byte_dispatch.md R76, R79). -/
def State.mode (s : State) : DecodeMode where
  state := s.state
  cmdset := s.cmdset
  cmd := s.cmd

end Sys2Proof.Machine
end

