-- ==== Sys2Proof/Machine/Flags.lean ====
section
/-!
DEFINITION. The flags and outputs of the device: every write of INTN, DONE, `redraw`, and every diagnostic,
goes through here.
-/
namespace Sys2Proof.Machine

/-- Drive INTN (60_exceptions.md R126): the level register and the event's output, in order (R127). -/
def State.driveIntn (l : Level) (s : State) : State :=
  { s with intn := l, out := { s.out with writes := s.out.writes ++ [.intn l] } }

/-- Drive DONE (60_exceptions.md R129). -/
def State.driveDone (asserted : Bool) (s : State) : State :=
  { s with cdone := asserted, out := { s.out with writes := s.out.writes ++ [.cdone asserted] } }

/-- `diag(kind)` (00_scope.md R5, 60_exceptions.md R136): an output, no state. -/
def State.emitDiag (d : Diag) (s : State) : State :=
  { s with out := { s.out with diags := s.out.diags ++ [d] } }

/-- Mark a redraw pending, or clear the mark (45_pixel_mapper_render.md R121). -/
def State.setRedraw (pending : Bool) (s : State) : State :=
  { s with redraw := pending }

/-- The transitions of INTN that a list of writes makes from a level (60_exceptions.md R127): a write equal to
the level that stands is none. -/
def intnTransitions : Level → List PinWrite → List Level
  | _, [] => []
  | l, .intn l' :: ws => if l' = l then intnTransitions l ws else l' :: intnTransitions l' ws
  | l, .cdone _ :: ws => intnTransitions l ws

/-- The writes of INTN among an event's writes, in order (60_exceptions.md R127). -/
def intnWrites : List PinWrite → List Level
  | [] => []
  | .intn l :: ws => l :: intnWrites ws
  | .cdone _ :: ws => intnWrites ws

/-- The value of DONE after a list of writes (60_exceptions.md R129). -/
def doneAfter : Bool → List PinWrite → Bool
  | d, [] => d
  | d, .intn _ :: ws => doneAfter d ws
  | _, .cdone d' :: ws => doneAfter d' ws

/-- The level of INTN after a list of writes (10_state.md R19). -/
def intnAfter : Level → List PinWrite → Level
  | l, [] => l
  | _, .intn l' :: ws => intnAfter l' ws
  | l, .cdone _ :: ws => intnAfter l ws

end Sys2Proof.Machine
end

