-- ==== Sys2Proof/Machine/Operands.lean ====
section
/-!
DEFINITION. The operand forms: the parameter's byte lanes, the column index, and the class of a data byte by
the row cursor.
-/
namespace Sys2Proof.Machine

/-- Insert a byte in lane `k` of the parameter; the other lanes keep their bytes (20_memory.md R56,
40_byte_dispatch.md R81). -/
def setLane (param : BitVec 32) (k : BitVec 2) (b : Byte) : BitVec 32 :=
  (param &&& ~~~(0xFF#32 <<< (8 * k.toNat))) ||| (b.setWidth 32 <<< (8 * k.toNat))

/-- Lane `k` of the parameter (10_state.md R23). -/
def lane (param : BitVec 32) (k : BitVec 2) : Byte :=
  param.extractLsb' (8 * k.toNat) 8

/-- The 32-bit immediate of SetParameter, first byte least significant (30_encoding.md R65). -/
def paramOfBytes (p0 p1 p2 p3 : Byte) : BitVec 32 := p3 ++ p2 ++ p1 ++ p0

/-- A column index is legal below `COLS` (20_memory.md R56, unsigned). -/
def columnInRange (b : Byte) : Bool := decide (b.toNat < Config.cols)

/-- The column a line is written to: the index, or 0 for one out of range (42_set1_commands.md R101). -/
def columnOf (b : Byte) : Byte := if columnInRange b then b else 0x00#8

/-- What the row cursor makes of a data byte (42_set1_commands.md R102). -/
inductive RowClass where
  /-- `row = -TOP_PAD`: the byte that ends the line. -/
  | trigger
  /-- `row >= ROWS`: discarded. -/
  | bottomPadding
  /-- `0 <= row < ROWS`: written to that row. -/
  | visible
  /-- Otherwise: discarded. -/
  | topPadding
deriving DecidableEq, Repr

/-- The class, by the tests of 42_set1_commands.md R102 in their order; every comparison is signed. -/
def rowClass (row : Int) : RowClass :=
  if row = -(Config.topPad : Int) then .trigger
  else if row ≥ (Config.rows : Int) then .bottomPadding
  else if row ≥ 0 then .visible
  else .topPadding

end Sys2Proof.Machine
end

