-- ==== Sys2Proof/Machine/Ops.lean ====
section
/-!
DEFINITION. The operations the meanings share: the two memories, accepting a command byte, completion, the
fatal condition, and the scene and stream operations built on them.
-/
namespace Sys2Proof.Machine

/-! Memory: a list of the written cells, addresses strictly rising (log 4). -/

/-- The two address spaces (20_memory.md R39). -/
inductive Space where
  | fb
  | hdr
deriving DecidableEq, Repr

/-- Number of cells of a space (20_memory.md R39). -/
def Space.size : Space → Nat
  | .fb => Config.fbSize
  | .hdr => Config.hdrCap

/-- What an address that nothing has written reads as: the power-on contents, free values (00_scope.md R8; log 4). -/
def Space.unwritten : Space → Nat → Byte
  | .fb => Config.fbInit
  | .hdr => Config.hdrInit

/-- The byte written at an address, if one was. -/
def Memory.lookup : Memory → Nat → Option Byte
  | [], _ => none
  | (a, b) :: m, x => if a = x then some b else Memory.lookup m x

/-- Read one byte of a space (20_memory.md R46, R47). No side effect (R51). -/
def Memory.read (sp : Space) (m : Memory) (a : Nat) : Byte :=
  (Memory.lookup m a).getD (sp.unwritten a)

/-- Write one byte, keeping the addresses strictly rising. -/
def Memory.write : Memory → Nat → Byte → Memory
  | [], x, v => [(x, v)]
  | (a, b) :: m, x, v =>
    if x < a then (x, v) :: (a, b) :: m
    else if x = a then (x, v) :: m
    else (a, b) :: Memory.write m x v

/-- The memory of `n` cells in which address `a` was written with `f a`, where that is a byte. -/
def Memory.build (n : Nat) (f : Nat → Option Byte) : Memory :=
  (List.range' 0 n).filterMap fun a => (f a).map fun b => (a, b)

/-- Addresses strictly rising. -/
def Memory.rising : Memory → Bool
  | [] => true
  | [_] => true
  | (a, _) :: (a', b') :: m => decide (a < a') && Memory.rising ((a', b') :: m)

/-- The canonical form: addresses strictly rising and inside the space (log 4). -/
def Memory.wf (sp : Space) (m : Memory) : Bool :=
  Memory.rising m && m.all fun c => decide (c.1 < sp.size)

/-- The bytes of a whole space in address order. -/
def Memory.contents (sp : Space) (m : Memory) : List Byte :=
  (List.range' 0 sp.size).map (Memory.read sp m)

/-! The framebuffer (20_memory.md R40, R42 to R44). -/

/-- Address of a cell (20_memory.md R40, D18). -/
def fbAddr (r c : Nat) : Nat := r * Config.cols + c

/-- `fb[r][c]` (00_scope.md R9). -/
def State.fbRead (s : State) (r c : Nat) : Byte := Memory.read .fb s.fb (fbAddr r c)

/-- `FbWrite(row, col, v)`: defined only in range (20_memory.md R42, R44). -/
def State.fbWrite (s : State) (r c : Nat) (v : Byte) : Option State :=
  if r < Config.rows ∧ c < Config.cols then some { s with fb := Memory.write s.fb (fbAddr r c) v } else none

/-- `FbFill(v)`: every cell (20_memory.md R43). -/
def State.fbFill (v : Byte) (s : State) : State :=
  { s with fb := Memory.build Config.fbSize fun _ => some v }

/-- The framebuffer after `SPLASH_RENDER`: a cell it changes has two low bits of zero, the others are kept
(00_scope.md R8, 41_set0_commands.md R92; log 5). -/
def splashRender (fb : Memory) : Memory :=
  Memory.build Config.fbSize fun a =>
    match Config.splashPixel (Memory.contents .fb fb) a with
    | some v => some (v ++ 0#2)
    | none => Memory.lookup fb a

/-! The header capture (20_memory.md R45). -/

/-- `HdrAppend(b)`: the capture saturates at its capacity. -/
def State.hdrAppend (b : Byte) (s : State) : State :=
  if s.hdrLen.toNat < Config.hdrCap then
    { s with hdr := Memory.write s.hdr s.hdrLen.toNat b, hdrLen := s.hdrLen + 1#9 }
  else s

/-- The captured bytes, in arrival order: `hdr[0 .. hdr_len)`. -/
def State.captured (s : State) : List Byte :=
  (List.range s.hdrLen.toNat).map (Memory.read .hdr s.hdr)

/-! Accepting, completing, aborting. -/

/-- What every command byte does before its command runs: it is stored, and INTN goes to busy
(40_byte_dispatch.md R79; 90_conflicts.md C1). -/
def State.acceptCommand (b : Byte) (s : State) : State :=
  State.driveIntn .high { s with cmd := b }

/-- `complete(assert_done)` (40_byte_dispatch.md R77). It is also the chip-select abort (60_exceptions.md R131)
and the return to the idle loop (R132). -/
def State.complete (assertDone : Bool) (s : State) : State :=
  let t := if assertDone then State.driveIntn .low s else s
  { t with state := .acceptingCommand, paramOff := 0#2 }

/-- The fatal condition, `raise Fatal(UnknownCommandSet)`: the command byte has been stored and INTN raised,
then the sticky flag is set; nothing clears it (40_byte_dispatch.md R80, 60_exceptions.md R124; log 7). -/
def State.raiseFatal (b : Byte) (s : State) : State :=
  { State.acceptCommand b s with fault := true }

/-- A command byte that names no command: accepted, reported, completed (41_set0_commands.md R90,
42_set1_commands.md R100). -/
def State.unknownCommand (b : Byte) (s : State) : State :=
  State.complete true (State.emitDiag (.unknownCommand b) (State.acceptCommand b s))

/-- The end of a scene that draws: store the scene byte, take the new framebuffer, mark the redraw, complete
(40_byte_dispatch.md R82, 41_set0_commands.md R89). -/
def State.drawn (id : Byte) (draw : State → State) (s : State) : State :=
  State.complete true (State.setRedraw true (draw { s with scene := id }))

/-- The second invocation of the Set0 executor with a pending command other than DrawScene
(40_byte_dispatch.md R82, 41_set0_commands.md R83). No run reaches it (10_state.md R36; log 10). -/
def State.reinvoke (b : Byte) (s : State) : State :=
  let t := { s with scene := b }
  if s.cmd = s.cfg.cmd0Null then State.complete true t
  else if s.cmd = s.cfg.cmd0SetParameter then { t with state := .acceptingParameter }
  else if s.cmd = s.cfg.cmd0DisplayOff then State.complete true t
  else if s.cmd = s.cfg.cmd0DisplayOn then State.complete true t
  else State.complete true (State.emitDiag (.unknownCommand s.cmd) t)

/-- A byte that the decoder reads as none of the table's instructions. -/
def State.rejected (r : DecodeReject) (b : Byte) (s : State) : State :=
  match r with
  | .unknownCommandSet => State.raiseFatal b s
  | .sceneWithoutDrawScene => State.reinvoke b s

end Sys2Proof.Machine
end

