-- ==== Sys2Proof/Machine/Scenes.lean ====
section
/-!
DEFINITION. The scene bytes of DrawScene (41_set0_commands.md R89, R91 to R95).
-/
namespace Sys2Proof.Machine

/-- `SCENE_BLACK` (41_set0_commands.md R91). -/
def execSceneBlack (s : State) : Host.Outcome State Fault Refusal :=
  .next (State.drawn Config.sceneBlack (State.fbFill Config.colorBlack) s)

/-- `SCENE_SPLASH` (41_set0_commands.md R92; log 5). -/
def execSceneSplash (s : State) : Host.Outcome State Fault Refusal :=
  .next (State.drawn s.cfg.sceneSplash (fun t => { t with fb := splashRender t.fb }) s)

/-- `SCENE_UPDATE` (41_set0_commands.md R93). -/
def execSceneUpdate (s : State) : Host.Outcome State Fault Refusal :=
  .next (State.drawn Config.sceneUpdate (State.fbFill Config.colorGreen) s)

/-- `SCENE_ERROR` (41_set0_commands.md R94). -/
def execSceneError (s : State) : Host.Outcome State Fault Refusal :=
  .next (State.drawn Config.sceneError (State.fbFill Config.colorBlue) s)

/-- `SCENE_UNKNOWN` (41_set0_commands.md R95): nothing is drawn and `redraw` is left as it was (D16; log 18). -/
def execSceneUnknown (id : Byte) (s : State) : Host.Outcome State Fault Refusal :=
  .next (State.complete true (State.emitDiag (.unknownScene id) { s with scene := id }))

end Sys2Proof.Machine
end

