-- ==== Sys2Proof/Machine/Set0.lean ====
section
/-!
DEFINITION. The command bytes of the boot command set (41_set0_commands.md). A meaning starts where the byte
has passed the gates and been decoded.
-/
namespace Sys2Proof.Machine

/-- `NULL` (41_set0_commands.md R84). -/
def execNull (s : State) : Host.Outcome State Fault Refusal :=
  .next (State.complete true (State.acceptCommand s.cfg.cmd0Null s))

/-- `SET_PARAMETER`, the command byte (41_set0_commands.md R85). -/
def execSetParameter (s : State) : Host.Outcome State Fault Refusal :=
  .next { State.acceptCommand s.cfg.cmd0SetParameter s with state := .acceptingParameter }

/-- `DISPLAY_OFF` (41_set0_commands.md R86): there is no display-enable state (D27; log 16). -/
def execDisplayOff (s : State) : Host.Outcome State Fault Refusal :=
  .next (State.complete true (State.acceptCommand s.cfg.cmd0DisplayOff s))

/-- `DISPLAY_ON` (41_set0_commands.md R87; log 16). -/
def execDisplayOn (s : State) : Host.Outcome State Fault Refusal :=
  .next (State.complete true (State.acceptCommand s.cfg.cmd0DisplayOn s))

/-- `DRAW_SCENE`, the command byte (41_set0_commands.md R88). -/
def execDrawScene (s : State) : Host.Outcome State Fault Refusal :=
  .next { State.acceptCommand s.cfg.cmd0DrawScene s with state := .acceptingSceneByte }

/-- `UNKNOWN0` (41_set0_commands.md R90). -/
def execUnknown0 (b : Byte) (s : State) : Host.Outcome State Fault Refusal :=
  .next (State.unknownCommand b s)

end Sys2Proof.Machine
end

