-- ==== Sys2Proof/Machine/Set1.lean ====
section
/-!
DEFINITION. The command bytes of the firmware command set (42_set1_commands.md).
-/
namespace Sys2Proof.Machine

/-- `FRAME_BEGIN` (42_set1_commands.md R97): it does not complete, so INTN stays at busy. -/
def execFrameBegin (s : State) : Host.Outcome State Fault Refusal :=
  .next (State.acceptCommand s.cfg.cmd1FrameBegin s)

/-- `FRAME_DATA`, the command byte (42_set1_commands.md R98). -/
def execFrameData (s : State) : Host.Outcome State Fault Refusal :=
  .next { State.acceptCommand s.cfg.cmd1FrameData s with state := .acceptingLineNumber }

/-- `FRAME_END` (42_set1_commands.md R99). -/
def execFrameEnd (s : State) : Host.Outcome State Fault Refusal :=
  .next (State.complete true (State.setRedraw true (State.acceptCommand s.cfg.cmd1FrameEnd s)))

/-- `UNKNOWN1` (42_set1_commands.md R100). -/
def execUnknown1 (b : Byte) (s : State) : Host.Outcome State Fault Refusal :=
  .next (State.unknownCommand b s)

end Sys2Proof.Machine
end

