-- ==== Sys2Proof/Machine/Stream.lean ====
section
/-!
DEFINITION. The bytes of the operand and data states: programming bytes, parameter bytes, and the lines of
FrameData, the framebuffer write controller.
-/
namespace Sys2Proof.Machine

/-- `PROGRAMMING_BYTE` (40_byte_dispatch.md R78). -/
def execProgrammingByte (b : Byte) (s : State) : Host.Outcome State Fault Refusal :=
  .next (State.hdrAppend b s)

/-- `PARAM_BYTE` (40_byte_dispatch.md R81): the lane is chosen by `param_off`; the last of the
`PARAM_BYTES` bytes completes. -/
def execParamByte (b : Byte) (s : State) : Host.Outcome State Fault Refusal :=
  let t := { s with param := setLane s.param s.paramOff b }
  if s.paramOff.toNat + 1 = Config.paramBytes then .next (State.complete true t)
  else .next { t with paramOff := s.paramOff + 1#2 }

/-- `LINE_INDEX` (42_set1_commands.md R101): an index out of range is replaced by 0 and reported. -/
def execLineIndex (c : Byte) (s : State) : Host.Outcome State Fault Refusal :=
  let t := { s with col := columnOf c }
  let u := if columnInRange c then t else State.emitDiag (.columnOutOfRange c) t
  .next (State.driveIntn .high { u with row := Config.rowStart, state := .acceptingData })

/-- `LINE_DATA` (42_set1_commands.md R102): by the class of the row cursor the byte ends the line, is written
verbatim, or is discarded. The trigger byte leaves `row` as it is (D17; log 17). -/
def execLineData (b : Byte) (s : State) : Host.Outcome State Fault Refusal :=
  match rowClass s.row with
  | .trigger => .next (State.driveIntn .low { s with state := .acceptingLineNumber })
  | .bottomPadding => .next { s with row := s.row - 1 }
  | .visible =>
    match State.fbWrite s s.row.toNat s.col.toNat b with
    | some t => .next { t with row := s.row - 1 }
    | none => .fault .fbOutOfRange
  | .topPadding => .next { s with row := s.row - 1 }

end Sys2Proof.Machine
end

