-- ==== Sys2Proof/Machine/Dispatch.lean ====
section
/-!
DEFINITION. One arm per instruction.
-/
namespace Sys2Proof.Machine

def exec (i : Instr) (s : State) : Host.Outcome State Fault Refusal :=
  match i with
  | .null => Sys2Proof.Machine.execNull s
  | .setParameter => Sys2Proof.Machine.execSetParameter s
  | .displayOff => Sys2Proof.Machine.execDisplayOff s
  | .displayOn => Sys2Proof.Machine.execDisplayOn s
  | .drawScene => Sys2Proof.Machine.execDrawScene s
  | .unknown0 b => Sys2Proof.Machine.execUnknown0 b s
  | .frameBegin => Sys2Proof.Machine.execFrameBegin s
  | .frameData => Sys2Proof.Machine.execFrameData s
  | .frameEnd => Sys2Proof.Machine.execFrameEnd s
  | .unknown1 b => Sys2Proof.Machine.execUnknown1 b s
  | .sceneBlack => Sys2Proof.Machine.execSceneBlack s
  | .sceneSplash => Sys2Proof.Machine.execSceneSplash s
  | .sceneUpdate => Sys2Proof.Machine.execSceneUpdate s
  | .sceneError => Sys2Proof.Machine.execSceneError s
  | .sceneUnknown id => Sys2Proof.Machine.execSceneUnknown id s
  | .programmingByte b => Sys2Proof.Machine.execProgrammingByte b s
  | .paramByte b => Sys2Proof.Machine.execParamByte b s
  | .lineIndex c => Sys2Proof.Machine.execLineIndex c s
  | .lineData b => Sys2Proof.Machine.execLineData b s

end Sys2Proof.Machine
end

