-- ==== Sys2Proof/Machine/Fetch.lean ====
section
/-!
DEFINITION. Taking the next event off the host's sequence, and placing a table word where the next step takes it.
-/
namespace Sys2Proof.Machine

/-- What an event returns over the serial bus before anything else is known of it: a `Byte` the placeholder,
whatever the state, the gate or the fault flag; the others nothing (40_byte_dispatch.md R75). -/
def returnedByte (s : State) : Event → Option Byte
  | .byte _ => some s.cfg.misoPlaceholder
  | .chipSelect _ => none
  | .clock _ => none
  | .reset _ => none
  | .render => none

/-- Take an event: it leaves the sequence, and the outputs start afresh (log 1, log 2). -/
def State.receive (s : State) (e : Event) (rest : List Event) : State :=
  { s with inputs := rest, out := { miso := returnedByte s e } }

/-- Put a table word first in the sequence, as one Byte event that passes both gates, in the mode in which
`decodeTableWord` reads it (log 11). -/
def State.placeTableWord (s : State) (nbits w : Nat) : State :=
  { s with
    cfg := Config.defaults
    state := (tableMode nbits).state
    cmdset := (tableMode nbits).cmdset
    cmd := (tableMode nbits).cmd
    cs := true
    fault := false
    inputs := .byte (tableByte w) :: s.inputs }

end Sys2Proof.Machine
end

