-- ==== Sys2Proof/Machine/Render.lean ====
section
/-!
DEFINITION. The pixel colour mapper and the render handshake (45_pixel_mapper_render.md).
-/
namespace Sys2Proof.Machine

/-- One channel: two bits to eight by `channel * 255 / 3` (45_pixel_mapper_render.md R118, 20_memory.md R56). -/
def scaleChannel (c : BitVec 2) : Byte := BitVec.ofNat 8 (c.toNat * 255 / 3)

/-- `color_map` (45_pixel_mapper_render.md R118, 30_encoding.md R70): red is bits 7:6, green 5:4, blue 3:2. -/
def colorMap (p : Byte) : Rgb where
  red := scaleChannel (p.extractLsb' 6 2)
  green := scaleChannel (p.extractLsb' 4 2)
  blue := scaleChannel (p.extractLsb' 2 2)

/-- The colours of a whole framebuffer, in address order (45_pixel_mapper_render.md R119; log 19). -/
def renderPass (fb : Memory) : List Rgb := (Memory.contents .fb fb).map colorMap

/-- `Render` (45_pixel_mapper_render.md R119, R120). -/
def onRender (s : State) : State :=
  if s.redraw then
    State.setRedraw false { s with out := { s.out with pass := some (renderPass s.fb) } }
  else s

end Sys2Proof.Machine
end

