-- ==== Sys2Proof/Machine/Classifier.lean ====
section
/-!
DEFINITION. The command-set classifier, a pure function of the captured header (43_classifier.md).
-/
namespace Sys2Proof.Machine

/-- The strings of the header after its marker: runs of non-zero bytes, each ended by one zero byte or by the
end of the captured bytes; empty strings are kept here and match nothing (43_classifier.md R108, R109). -/
def headerStrings : List Byte → List (List Byte)
  | [] => []
  | b :: bs =>
    if b = 0x00#8 then [] :: headerStrings bs
    else
      match headerStrings bs with
      | s :: ss => (b :: s) :: ss
      | [] => [[b]]

/-- The classifier's result and its diagnostic (43_classifier.md R108, R110, R111): the first string that begins
with "Date:" decides; the first table entry that is a prefix of it gives the set; otherwise Set1. -/
def classify (table : List (List Byte × Vocabulary)) (bytes : List Byte) : Vocabulary × Option Diag :=
  match (headerStrings (bytes.drop Config.hdrSkip)).find? fun s => Config.dateMark.isPrefixOf s with
  | none => (.set1, some .noDateString)
  | some s =>
    match table.find? fun e => e.1.isPrefixOf s with
    | some e => (e.2, none)
    | none => (.set1, some (.dateNotRecognised s))

/-- Run the classifier on the captured header and keep its result (43_classifier.md R107). -/
def State.classifyHeader (s : State) : State :=
  let r := classify s.cfg.dateTable s.captured
  let t := { s with cmdset := r.1.toCmdSet }
  match r.2 with
  | some d => State.emitDiag d t
  | none => t

end Sys2Proof.Machine
end

