-- ==== Sys2Proof/Machine/Signals.lean ====
section
/-!
DEFINITION. The signal events: chip-select, clock, reset.
-/
namespace Sys2Proof.Machine

/-- `CS(a)` (44_signals.md R114, R115): an edge to inactive outside Programming aborts the command in flight. -/
def onChipSelect (active : Bool) (s : State) : State :=
  if active = s.cs then s
  else
    let t := { s with cs := active }
    if active = false ∧ s.state ≠ .programming then State.complete true t else t

/-- The exit from Programming: completion, then the classifier (44_signals.md R116, D29). The classifier reads
only the HDR space, so a length beyond it stops the model (log 9). -/
def leaveProgramming (s : State) : Host.Outcome State Fault Refusal :=
  if s.hdrLen.toNat ≤ Config.hdrCap then .next (State.classifyHeader (State.complete true s))
  else .fault .hdrOutOfRange

/-- A rising edge: stored level low, new level high (44_signals.md R116, D13). -/
def rising (before after : Level) : Bool := decide (before = .low) && decide (after = .high)

/-- `SCLK(l)` (44_signals.md R116, R117). -/
def onClock (l : Level) (s : State) : Host.Outcome State Fault Refusal :=
  let t := { s with sclk := l }
  if rising s.sclk l = true ∧ s.cs = false ∧ s.sclkCnt.toNat ≤ Config.sclkThreshold then
    let u := { t with sclkCnt := s.sclkCnt + 1#6 }
    if u.sclkCnt.toNat > Config.sclkThreshold then
      if s.state = .programming then leaveProgramming (State.driveDone true u)
      else .next (State.driveDone true u)
    else .next u
  else .next t

/-- The reset assert edge (70_reset_and_hazards.md R139). -/
def resetAsserted (s : State) : State :=
  State.driveDone false { s with rst := true }

/-- The reset release edge (70_reset_and_hazards.md R140; log 14). -/
def resetReleased (s : State) : State :=
  State.driveIntn .high
    { s with
      rst := false, sclkCnt := 0#6, state := .programming, hdrLen := 0#9, cmdset := .unknown,
      cmd := 0x00#8, param := 0#32, paramOff := 0#2, scene := 0x00#8, col := 0x00#8, row := 0 }

/-- `RST(r)` (70_reset_and_hazards.md R138, R142). -/
def onReset (asserted : Bool) (s : State) : State :=
  if asserted = s.rst then s
  else if asserted then resetAsserted s
  else resetReleased s

end Sys2Proof.Machine
end

