-- ==== Sys2Proof/Machine/Step.lean ====
section
/-!
DEFINITION. One step: the next event of the host's sequence, run to completion (00_scope.md R4).
-/
namespace Sys2Proof.Machine

/-- A `Byte` past the fault gate: the chip-select gate, then the row of the current state
(40_byte_dispatch.md R73, R74, R76). -/
def onByte (b : Byte) (s : State) : Host.Outcome State Fault Refusal :=
  if s.cs then
    match decode s.cfg s.mode b with
    | .ok i => exec i s
    | .error r => .next (State.rejected r b s)
  else .next (State.emitDiag .dataWhileDeselected s)

/-- An event on a device that has not had the fatal condition. -/
def handle (e : Event) (s : State) : Host.Outcome State Fault Refusal :=
  match e with
  | .byte b => onByte b s
  | .chipSelect a => .next (onChipSelect a s)
  | .clock l => onClock l s
  | .reset r => .next (onReset r s)
  | .render => .next (onRender s)

/-- One step. There is none without an event, so with no event pending the state stands (log 1); while the
fault flag is set an event does nothing (60_exceptions.md R124). -/
def step (s : State) : Host.Outcome State Fault Refusal :=
  match s.inputs with
  | [] => .next s
  | e :: rest =>
    if s.fault then .next (State.receive s e rest) else handle e (State.receive s e rest)

/-- The state in which the very next step runs the instruction of a table word (log 11). -/
def State.withFetchWord (s : State) (nbits w : Nat) : State := State.placeTableWord s nbits w

end Sys2Proof.Machine
end

