-- ==== Sys2Proof/Safety.lean ====
section
/-!
DEFINITION. The terms in which claims about the machine are made: its invariant, what a fault outcome is,
the outcome of a command that completes at once, and the relations between two states that differ in one part.
-/
namespace Sys2Proof.Machine

/-- What holds of the power-on state and is kept by every step (10_state.md R31 to R36, with the ranges of R10
and the canonical form of the memories). R32 is taken in its first clause only (log 22). -/
structure Inv (s : State) : Prop where
  /-- The parameters are pairwise distinct where 00_scope.md R7 asks it. -/
  params : s.cfg.wf = true
  /-- The fatal condition has not occurred (R31). -/
  noFault : s.fault = false
  /-- R31. -/
  cmdsetKnown : s.state ≠ .programming → s.cmdset ≠ .unknown
  /-- R18. -/
  counterRange : s.sclkCnt.toNat ≤ 51
  /-- R32, first clause. -/
  counterFull : s.state ≠ .programming ↔ s.sclkCnt = 51#6
  /-- R33. -/
  colRange : s.col.toNat < Config.cols
  /-- R34. -/
  rowRange : s.state = .acceptingData → -(Config.topPad : Int) ≤ s.row ∧ s.row ≤ Config.rowStart
  /-- R35. -/
  paramOffZero : s.state ≠ .acceptingParameter → s.paramOff = 0#2
  /-- R36, AcceptingParameter. -/
  parameterMode : s.state = .acceptingParameter → s.cmdset = .set0 ∧ s.cmd = s.cfg.cmd0SetParameter
  /-- R36, AcceptingSceneByte. -/
  sceneMode : s.state = .acceptingSceneByte → s.cmdset = .set0 ∧ s.cmd = s.cfg.cmd0DrawScene
  /-- R36, AcceptingLineNumber and AcceptingData. -/
  streamMode : s.state = .acceptingLineNumber ∨ s.state = .acceptingData →
    s.cmdset = .set1 ∧ s.cmd = s.cfg.cmd1FrameData
  /-- R14. -/
  hdrLenRange : s.hdrLen.toNat ≤ Config.hdrCap
  /-- Every captured byte has been written (20_memory.md R45, R46). -/
  hdrFilled : ∀ a, a < s.hdrLen.toNat → (Memory.lookup s.hdr a).isSome = true
  /-- The framebuffer keeps its canonical form. -/
  fbWf : Memory.wf .fb s.fb = true
  /-- The header capture keeps its canonical form. -/
  hdrWf : Memory.wf .hdr s.hdr = true

/-- A fault outcome in the sense of 60_exceptions.md R124: the model stopped, or the sticky flag is set (log 7). -/
def reportsFault : Host.Outcome State Fault Refusal → Bool
  | .next s => s.fault
  | .fault _ => true
  | .refused _ => true

/-- The outcome of a command byte `c` that completes at once, with diagnostics `ds`: the command is stored, INTN is
written high and then low, and nothing else of the device changes. -/
def completedAtOnce (s : State) (c : Byte) (ds : List Diag) : Host.Outcome State Fault Refusal :=
  .next { s with
    cmd := c, intn := .low, state := .acceptingCommand, paramOff := 0#2
    out := { s.out with writes := s.out.writes ++ [.intn .high, .intn .low], diags := s.out.diags ++ ds } }

/-- Two outcomes are related: both next states, related; or both the same stop. -/
def OutcomeRel (R : State → State → Prop) :
    Host.Outcome State Fault Refusal → Host.Outcome State Fault Refusal → Prop
  | .next s, .next t => R s t
  | .fault r, .fault r' => r = r'
  | .refused r, .refused r' => r = r'
  | .next _, .fault _ => False
  | .next _, .refused _ => False
  | .fault _, .next _ => False
  | .fault _, .refused _ => False
  | .refused _, .next _ => False
  | .refused _, .fault _ => False

/-- The two states are equal but for the parameter register. -/
def differInParam (s t : State) : Prop := t = { s with param := t.param }

/-- The two states are equal but for bytes of the header capture at and above `hdr_len`. -/
def differInStaleHeader (s t : State) : Prop :=
  t = { s with hdr := t.hdr } ∧
    ∀ a, a < s.hdrLen.toNat → Memory.read .hdr t.hdr a = Memory.read .hdr s.hdr a

/-- The two states are equal but for the framebuffer's contents and the colours of a render pass: there is a
pass in both or in neither, and it has the same number of pixels. -/
def differInFramebuffer (s t : State) : Prop :=
  t = { s with fb := t.fb, out := { s.out with pass := t.out.pass } } ∧
    t.out.pass.map List.length = s.out.pass.map List.length

/-- The transitions of `state` that 60_exceptions.md R133 lists, by the event that makes them. -/
def transitionAllowed (before : ProtocolState) (e : Event) (after : ProtocolState) : Bool :=
  decide (before = after) ||
  match e with
  | .byte _ =>
    decide ((before, after) ∈
      [(ProtocolState.acceptingCommand, ProtocolState.acceptingParameter),
       (.acceptingCommand, .acceptingSceneByte), (.acceptingCommand, .acceptingLineNumber),
       (.acceptingParameter, .acceptingCommand), (.acceptingSceneByte, .acceptingCommand),
       (.acceptingLineNumber, .acceptingData), (.acceptingData, .acceptingLineNumber)])
  | .chipSelect a => decide (a = false ∧ before ≠ .programming ∧ after = .acceptingCommand)
  | .clock l => decide (l = .high ∧ before = .programming ∧ after = .acceptingCommand)
  | .reset r => decide (r = false ∧ after = .programming)
  | .render => false

/-- `k` steps of the machine, stopping at the first fault or refusal: a run over the events in `inputs`. -/
def runSteps : Nat → State → Host.Outcome State Fault Refusal
  | 0, s => .next s
  | k + 1, s =>
    match step s with
    | .next t => runSteps k t
    | .fault r => .fault r
    | .refused r => .refused r

end Sys2Proof.Machine
end

