-- ==== Sys2Proof/Certificates/Slice0/Obligations.lean ====
section
/-!
DEFINITION. The statements for the provers. Each docstring names the rule of spec/ it formalises, or says that it
is the model's choice and names the log entry.
-/
open Sys2Proof Sys2Proof.Machine

/-! ## Encoding -/

/-- Decode and encode agree: in every mode that fits a well-formed instruction, its byte decodes to it
(30_encoding.md R59 to R64; the parameters satisfy 00_scope.md R7). -/
def Obligations.DecodeOfEncode : Prop :=
  ∀ (p : Params) (m : DecodeMode) (i : Instr),
    p.wf = true → i.wf p = true → i.fits p m = true → decode p m (encode p i) = .ok i

/-- The other direction: an instruction the decoder answers is well formed, fits the mode, and has that byte. -/
def Obligations.EncodeOfDecode : Prop :=
  ∀ (p : Params) (m : DecodeMode) (b : Byte) (i : Instr),
    decode p m b = .ok i → encode p i = b ∧ i.wf p = true ∧ i.fits p m = true

/-- A byte decodes to no instruction in two cases only: a command byte with the command set Unknown (R80), and
a scene byte whose pending command is not DrawScene (R82; log 10). -/
def Obligations.DecoderRejectsOnly : Prop :=
  ∀ (p : Params) (m : DecodeMode) (b : Byte),
    (decode p m b = .error .unknownCommandSet ↔ m.state = .acceptingCommand ∧ m.cmdset = .unknown) ∧
    (decode p m b = .error .sceneWithoutDrawScene ↔
      m.state = .acceptingSceneByte ∧ decodeSet0 p m.cmd ≠ .drawScene)

/-- A few bytes of 30_encoding.md R61, R62, R63 and what they decode to, with the default parameters (D1, D2, D3:
the spec's own choice; log 3). -/
def Obligations.DefaultWordsDecode : Prop :=
  decode Config.defaults ⟨.acceptingCommand, .set0, 0x00#8⟩ 0x04#8 = .ok .drawScene ∧
  decode Config.defaults ⟨.acceptingCommand, .set0, 0x00#8⟩ 0x05#8 = .ok (.unknown0 0x05#8) ∧
  decode Config.defaults ⟨.acceptingCommand, .set1, 0x00#8⟩ 0x01#8 = .ok .frameData ∧
  decode Config.defaults ⟨.acceptingSceneByte, .set0, 0x04#8⟩ 0x03#8 = .ok .sceneError ∧
  decode Config.defaults ⟨.acceptingData, .set1, 0x01#8⟩ 0x02#8 = .ok (.lineData 0x02#8)

/-! ## The Byte event -/

/-- A step runs the decoded instruction (40_byte_dispatch.md R73, R76): past the fault gate and the chip-select
gate, a byte that decodes to `i` makes the step `exec i`, on the state from which the event has been taken;
around it the step only takes the event and records the returned byte (R75; log 1, log 2). -/
def Obligations.StepRunsDecodedInstruction : Prop :=
  ∀ (s : State) (b : Byte) (rest : List Event) (i : Instr),
    s.inputs = .byte b :: rest → s.fault = false → s.cs = true → decode s.cfg s.mode b = .ok i →
    step s = exec i { s with inputs := rest, out := { miso := some s.cfg.misoPlaceholder } }

/-- A byte while chip-select is inactive changes no state and is reported (40_byte_dispatch.md R74). -/
def Obligations.DeselectedByteDropped : Prop :=
  ∀ (s : State) (b : Byte) (rest : List Event),
    s.inputs = .byte b :: rest → s.fault = false → s.cs = false →
    step s = .next { s with
      inputs := rest
      out := { miso := some s.cfg.misoPlaceholder, diags := [.dataWhileDeselected] } }

/-- The fatal condition is sticky: every event leaves the state of a faulted device as it is and writes no
output; a byte still returns the placeholder (60_exceptions.md R124, the spec's decision D19; log 7). -/
def Obligations.FaultedDeviceIgnoresEvents : Prop :=
  ∀ (s : State) (e : Event) (rest : List Event), s.inputs = e :: rest → s.fault = true →
    ∃ m, step s = .next { s with inputs := rest, out := { miso := m } } ∧
      ((∃ b, e = .byte b) → m = some s.cfg.misoPlaceholder) ∧ ((¬ ∃ b, e = .byte b) → m = none)

/-- A command byte with the command set Unknown is stored, raises INTN and sets `fault`; the state stays
AcceptingCommand (40_byte_dispatch.md R80, decision D19; log 7). -/
def Obligations.UnknownCommandSetIsFatal : Prop :=
  ∀ (s : State) (b : Byte) (rest : List Event),
    s.inputs = .byte b :: rest → s.fault = false → s.cs = true → s.state = .acceptingCommand →
    s.cmdset = .unknown →
    step s = .next { s with
      inputs := rest, cmd := b, intn := .high, fault := true
      out := { miso := some s.cfg.misoPlaceholder, writes := [.intn .high] } }

/-! ## Command bytes -/

/-- Null and the unknown commands of both sets complete at once; an unknown command is reported
(41_set0_commands.md R84, R90, 42_set1_commands.md R100). -/
def Obligations.NullAndUnknownComplete : Prop :=
  ∀ (s : State) (b : Byte),
    exec .null s = completedAtOnce s s.cfg.cmd0Null [] ∧
    exec (.unknown0 b) s = completedAtOnce s b [.unknownCommand b] ∧
    exec (.unknown1 b) s = completedAtOnce s b [.unknownCommand b]

/-- DisplayOff and DisplayOn complete at once (41_set0_commands.md R86, R87; that there is no display state for
them to change is decision D27, log 16). -/
def Obligations.DisplayCommandsComplete : Prop :=
  ∀ s : State,
    exec .displayOff s = completedAtOnce s s.cfg.cmd0DisplayOff [] ∧
    exec .displayOn s = completedAtOnce s s.cfg.cmd0DisplayOn []

/-- SetParameter, DrawScene and FrameData store the command, leave INTN high and wait for their operands;
FrameBegin does the same and stays in its state (41_set0_commands.md R85, R88, 42_set1_commands.md R97, R98). -/
def Obligations.OperandCommandsWait : Prop :=
  ∀ s : State,
    let waiting := fun (c : Byte) (q : ProtocolState) =>
      Host.Outcome.next (φ := Fault) (ρ := Refusal) { s with
        cmd := c, intn := .high, state := q
        out := { s.out with writes := s.out.writes ++ [.intn .high] } }
    exec .setParameter s = waiting s.cfg.cmd0SetParameter .acceptingParameter ∧
    exec .drawScene s = waiting s.cfg.cmd0DrawScene .acceptingSceneByte ∧
    exec .frameData s = waiting s.cfg.cmd1FrameData .acceptingLineNumber ∧
    exec .frameBegin s = waiting s.cfg.cmd1FrameBegin s.state

/-- FrameEnd marks a redraw pending and completes; it writes no framebuffer cell (42_set1_commands.md R99). -/
def Obligations.FrameEndMarksRedraw : Prop :=
  ∀ s : State,
    exec .frameEnd s = .next { s with
      cmd := s.cfg.cmd1FrameEnd, redraw := true, intn := .low, state := .acceptingCommand, paramOff := 0#2
      out := { s.out with writes := s.out.writes ++ [.intn .high, .intn .low] } }

/-- An immediately completing command makes a rising and a falling transition of INTN from low, and one falling
transition from high. That the two writes of one event are a pulse of zero duration, not a level alone, is decision
D31, a choice (log 2), which 60_exceptions.md R127 and 40_byte_dispatch.md R79 write out. -/
def Obligations.ImmediateCommandEdges : Prop :=
  ∀ (i : Instr) (b : Byte) (s t : State),
    i ∈ [.null, .displayOff, .displayOn, .unknown0 b, .unknown1 b, .frameEnd] →
    s.out.writes = [] → exec i s = .next t →
    intnTransitions .low t.out.writes = [.high, .low] ∧ intnTransitions .high t.out.writes = [.low]

/-! ## Scene bytes -/

/-- The scenes Black, Update and Error give every framebuffer cell their colour, mark a redraw and complete;
nothing else changes (41_set0_commands.md R91, R93, R94). -/
def Obligations.SolidScenesFill : Prop :=
  ∀ (s : State) (i : Instr) (id v : Byte),
    (i, id, v) ∈ [(Instr.sceneBlack, 0x00#8, 0x00#8), (.sceneUpdate, 0x02#8, 0x30#8),
      (.sceneError, 0x03#8, 0x0C#8)] →
    ∃ t, exec i s = .next t ∧ (∀ r c, r < 172 → c < 148 → t.fbRead r c = v) ∧
      t = { s with
        fb := t.fb, scene := id, redraw := true, intn := .low, state := .acceptingCommand, paramOff := 0#2
        out := { s.out with writes := s.out.writes ++ [.intn .low] } }

/-- The scene Splash leaves each cell alone or gives it a value with two low bits of zero, marks a redraw and
completes; nothing else changes (41_set0_commands.md R92, decisions D3, D4; log 5). -/
def Obligations.SplashSceneDraws : Prop :=
  ∀ s : State,
    ∃ t, exec .sceneSplash s = .next t ∧
      (∀ r c, r < 172 → c < 148 → t.fbRead r c = s.fbRead r c ∨ t.fbRead r c &&& 0x03#8 = 0x00#8) ∧
      t = { s with
        fb := t.fb, scene := s.cfg.sceneSplash, redraw := true, intn := .low, state := .acceptingCommand
        paramOff := 0#2, out := { s.out with writes := s.out.writes ++ [.intn .low] } }

/-- What Splash draws depends on the framebuffer's contents alone (00_scope.md R8; log 5). -/
def Obligations.SplashDependsOnContents : Prop :=
  ∀ s s' t t' : State, exec .sceneSplash s = .next t → exec .sceneSplash s' = .next t' →
    (∀ r c, r < 172 → c < 148 → s.fbRead r c = s'.fbRead r c) →
    ∀ r c, r < 172 → c < 148 → t.fbRead r c = t'.fbRead r c

/-- An unknown scene is reported and completes; the framebuffer and `redraw` stay (41_set0_commands.md R95,
`redraw` by decision D16; log 18). -/
def Obligations.UnknownSceneDrawsNothing : Prop :=
  ∀ (s : State) (id : Byte),
    exec (.sceneUnknown id) s = .next { s with
      scene := id, intn := .low, state := .acceptingCommand, paramOff := 0#2
      out := { s.out with
        writes := s.out.writes ++ [.intn .low], diags := s.out.diags ++ [.unknownScene id] } }

/-! ## Programming, parameter and line bytes -/

/-- A programming byte is appended to the header capture while there is room, and dropped when it is full;
nothing else changes (20_memory.md R45). -/
def Obligations.ProgrammingByteCaptured : Prop :=
  ∀ (b : Byte) (s : State),
    (s.hdrLen.toNat < 256 →
      ∃ t, exec (.programmingByte b) s = .next t ∧ t.hdrLen.toNat = s.hdrLen.toNat + 1 ∧
        (∀ a, Memory.read .hdr t.hdr a = if a = s.hdrLen.toNat then b else Memory.read .hdr s.hdr a) ∧
        t = { s with hdr := t.hdr, hdrLen := t.hdrLen }) ∧
    (256 ≤ s.hdrLen.toNat → exec (.programmingByte b) s = .next s)

/-- A parameter byte goes to the lane that `param_off` names and leaves the others; the fourth completes, the
others advance the offset (40_byte_dispatch.md R81, decisions D14, D15; log 23). -/
def Obligations.ParameterByteFillsLane : Prop :=
  ∀ (b : Byte) (s : State),
    ∃ t, exec (.paramByte b) s = .next t ∧ lane t.param s.paramOff = b ∧
      (∀ k, k ≠ s.paramOff → lane t.param k = lane s.param k) ∧
      (if s.paramOff = 3#2 then
        t = { s with
          param := t.param, state := .acceptingCommand, paramOff := 0#2, intn := .low
          out := { s.out with writes := s.out.writes ++ [.intn .low] } }
      else t = { s with param := t.param, paramOff := s.paramOff + 1#2 })

/-- Four parameter bytes assemble the little-endian 32-bit parameter and return to AcceptingCommand, whatever
the parameter was before (40_byte_dispatch.md R81, 30_encoding.md R65, 95_test_vectors.md T1). -/
def Obligations.FourBytesAssembleParameter : Prop :=
  ∀ (s : State) (p0 p1 p2 p3 : Byte) (rest : List Event),
    s.inputs = [.byte p0, .byte p1, .byte p2, .byte p3] ++ rest → s.fault = false → s.cs = true →
    s.state = .acceptingParameter → s.paramOff = 0#2 →
    ∃ t, runSteps 4 s = .next t ∧
      t.param.toNat = p0.toNat + 256 * p1.toNat + 65536 * p2.toNat + 16777216 * p3.toNat ∧
      t = { s with
        param := t.param, state := .acceptingCommand, paramOff := 0#2, intn := .low, inputs := rest
        out := t.out }

/-- A column index starts a line: an index of 148 or more is replaced by 0 and reported
(42_set1_commands.md R101). -/
def Obligations.LineIndexStartsLine : Prop :=
  ∀ (c : Byte) (s : State),
    exec (.lineIndex c) s = .next { s with
      col := if c.toNat < 148 then c else 0x00#8
      row := 187, state := .acceptingData, intn := .high
      out := { s.out with
        writes := s.out.writes ++ [.intn .high]
        diags := if c.toNat < 148 then s.out.diags else s.out.diags ++ [.columnOutOfRange c] } }

/-- A visible byte is stored verbatim in the cell of the two cursors, the row cursor goes down by one, and no
other cell and nothing else changes (42_set1_commands.md R102, 20_memory.md R42; the address is that of R40,
decision D18). -/
def Obligations.VisibleByteWritten : Prop :=
  ∀ (b : Byte) (s : State), 0 ≤ s.row → s.row < 172 → s.col.toNat < 148 →
    ∃ t, exec (.lineData b) s = .next t ∧
      (∀ r c, r < 172 → c < 148 →
        t.fbRead r c = if (r : Int) = s.row ∧ c = s.col.toNat then b else s.fbRead r c) ∧
      (∀ a, Memory.read .fb t.fb a =
        if a = fbAddr s.row.toNat s.col.toNat then b else Memory.read .fb s.fb a) ∧
      t = { s with fb := t.fb, row := s.row - 1 }

/-- A padding byte only moves the row cursor; the trigger byte ends the line and leaves the cursors
(42_set1_commands.md R102, the row after the trigger by decision D17; log 17). No byte of memory changes. -/
def Obligations.PaddingAndTriggerBytes : Prop :=
  ∀ (b : Byte) (s : State),
    ((172 ≤ s.row ∨ s.row < 0 ∧ s.row ≠ -17) → exec (.lineData b) s = .next { s with row := s.row - 1 }) ∧
    (s.row = -17 → exec (.lineData b) s = .next { s with
      state := .acceptingLineNumber, intn := .low
      out := { s.out with writes := s.out.writes ++ [.intn .low] } })

/-- A visible byte with the column cursor out of range stops the model; the spec gives such a write no meaning
(20_memory.md R44, 93_implementation_defined.md U1; log 8). -/
def Obligations.VisibleByteOutOfRangeStops : Prop :=
  ∀ (b : Byte) (s : State), 0 ≤ s.row → s.row < 172 → 148 ≤ s.col.toNat →
    exec (.lineData b) s = .fault .fbOutOfRange

/-- A whole line (42_set1_commands.md R101, R104, 70_reset_and_hazards.md R152): a column index and 205 data bytes
write exactly the column of the index, column 0 for an index of 148 or more, row `r` from data byte `187 - r`, and
end in AcceptingLineNumber with INTN low. The row order is 90_conflicts.md C3's, the boundary byte decision D24's
(log 24); the row cursor at the end is D17's (log 17). -/
def Obligations.WholeLineWritesColumn : Prop :=
  ∀ (s : State) (c : Byte) (ds : List Byte) (rest : List Event),
    s.inputs = (c :: ds).map Event.byte ++ rest → ds.length = 205 →
    s.fault = false → s.cs = true → s.state = .acceptingLineNumber →
    let col := if c.toNat < 148 then c else 0x00#8
    ∃ t, runSteps 206 s = .next t ∧
      (∀ r k, r < 172 → k < 148 →
        t.fbRead r k = if k = col.toNat then ds.getD (187 - r) 0x00#8 else s.fbRead r k) ∧
      t = { s with fb := t.fb, col := col, row := -17, intn := .low, inputs := rest, out := t.out }

/-- A line cut short by chip-select (42_set1_commands.md R105, R101): after an index and `j` data bytes, `j` at most
204, a chip-select de-assertion leaves exactly the visible bytes among the first `j` written, rows 171 down to
`188 - j` of the index's column (column 0 for an index of 148 or more), and returns to AcceptingCommand with INTN
low. The row order is 90_conflicts.md C3's (log 24). -/
def Obligations.ShortLineKeepsItsBytes : Prop :=
  ∀ (s : State) (c : Byte) (ds : List Byte) (rest : List Event),
    s.inputs = (c :: ds).map Event.byte ++ .chipSelect false :: rest → ds.length ≤ 204 →
    s.fault = false → s.cs = true → s.state = .acceptingLineNumber →
    let col := if c.toNat < 148 then c else 0x00#8
    ∃ t, runSteps (ds.length + 2) s = .next t ∧
      (∀ r k, r < 172 → k < 148 →
        t.fbRead r k =
          if k = col.toNat ∧ 188 ≤ r + ds.length then ds.getD (187 - r) 0x00#8 else s.fbRead r k) ∧
      t = { s with
        fb := t.fb, col := col, row := 187 - (ds.length : Int), intn := .low, state := .acceptingCommand
        paramOff := 0#2, cs := false, inputs := rest, out := t.out }

/-- A line cut short by the reset release (42_set1_commands.md R105, R101): the same bytes stay written, and the
device is in Programming with INTN high and the registers of 70_reset_and_hazards.md R140. That bytes are accepted
under a held reset is decision D11 (log 12), what the release writes D10 (log 14), the row order 90_conflicts.md
C3's (log 24). -/
def Obligations.ResetKeepsShortLine : Prop :=
  ∀ (s : State) (c : Byte) (ds : List Byte) (rest : List Event),
    s.inputs = (c :: ds).map Event.byte ++ .reset false :: rest → ds.length ≤ 204 →
    s.fault = false → s.cs = true → s.rst = true → s.state = .acceptingLineNumber →
    let col := if c.toNat < 148 then c else 0x00#8
    ∃ t, runSteps (ds.length + 2) s = .next t ∧
      (∀ r k, r < 172 → k < 148 →
        t.fbRead r k =
          if k = col.toNat ∧ 188 ≤ r + ds.length then ds.getD (187 - r) 0x00#8 else s.fbRead r k) ∧
      t = { s with
        fb := t.fb, rst := false, intn := .high, sclkCnt := 0#6, state := .programming, hdrLen := 0#9
        cmdset := .unknown, cmd := 0x00#8, param := 0#32, paramOff := 0#2, scene := 0x00#8, col := 0x00#8
        row := 0, inputs := rest, out := t.out }

/-- No byte leaves the column stream (42_set1_commands.md R106): after any run of bytes the device is still in
AcceptingLineNumber or AcceptingData, and `redraw` and the command set are as they were. -/
def Obligations.BytesStayInStream : Prop :=
  ∀ (s : State) (bs : List Byte) (rest : List Event),
    s.inputs = bs.map Event.byte ++ rest → s.fault = false → s.cs = true → s.col.toNat < 148 →
    (s.state = .acceptingLineNumber ∨ s.state = .acceptingData) →
    ∃ t, runSteps bs.length s = .next t ∧
      (t.state = .acceptingLineNumber ∨ t.state = .acceptingData) ∧
      t.redraw = s.redraw ∧ t.cmdset = s.cmdset ∧ t.cmd = s.cmd ∧ t.inputs = rest

/-! ## Signals -/

/-- The chip-select abort (44_signals.md R114, 60_exceptions.md R131): an edge to inactive outside Programming
completes, and keeps all that the command had written. -/
def Obligations.ChipSelectAborts : Prop :=
  ∀ (s : State) (rest : List Event),
    s.inputs = .chipSelect false :: rest → s.fault = false → s.cs = true → s.state ≠ .programming →
    step s = .next { s with
      inputs := rest, cs := false, state := .acceptingCommand, paramOff := 0#2, intn := .low
      out := { writes := [.intn .low] } }

/-- Any other chip-select event writes the latch alone: no edge, an edge to active, an edge to inactive in
Programming (44_signals.md R114, R115; no effect without an edge by decision D12; log 12). -/
def Obligations.ChipSelectOtherwiseLatches : Prop :=
  ∀ (s : State) (a : Bool) (rest : List Event),
    s.inputs = .chipSelect a :: rest → s.fault = false →
    (a = s.cs ∨ a = true ∨ s.state = .programming) →
    step s = .next { s with inputs := rest, cs := a, out := {} }

/-- A clock event that is no rising edge, or comes while chip-select is active, or after the counter has
passed the threshold, only latches the level (44_signals.md R116, R117; D13; log 13). -/
def Obligations.ClockOtherwiseLatches : Prop :=
  ∀ (s : State) (l : Level) (rest : List Event),
    s.inputs = .clock l :: rest → s.fault = false →
    ¬ (s.sclk = .low ∧ l = .high ∧ s.cs = false ∧ s.sclkCnt.toNat ≤ 50) →
    step s = .next { s with inputs := rest, sclk := l, out := {} }

/-- A rising edge with chip-select inactive counts, up to the threshold (44_signals.md R116; D13; log 13). -/
def Obligations.ClockEdgeCounts : Prop :=
  ∀ (s : State) (rest : List Event),
    s.inputs = .clock .high :: rest → s.fault = false → s.sclk = .low → s.cs = false → s.sclkCnt.toNat < 50 →
    step s = .next { s with inputs := rest, sclk := .high, sclkCnt := s.sclkCnt + 1#6, out := {} }

/-- The 51st counted edge asserts DONE and, in Programming, completes and stores the classifier's result,
which is never Unknown (44_signals.md R116, 43_classifier.md R107; D13, D29; logs 9, 13). -/
def Obligations.ClockEdgeLeavesProgramming : Prop :=
  ∀ (s : State) (rest : List Event),
    s.inputs = .clock .high :: rest → s.fault = false → s.sclk = .low → s.cs = false →
    s.sclkCnt.toNat = 50 → s.state = .programming → s.hdrLen.toNat ≤ 256 →
    ∃ t, step s = .next t ∧ t.cmdset ≠ .unknown ∧
      t = { s with
        inputs := rest, sclk := .high, sclkCnt := 51#6, cdone := true, intn := .low
        state := .acceptingCommand, paramOff := 0#2
        cmdset := (classify s.cfg.dateTable s.captured).1.toCmdSet
        out := {
          writes := [.cdone true, .intn .low]
          diags := (classify s.cfg.dateTable s.captured).2.toList } }

/-- Fifty counted edges leave the device in Programming with DONE and INTN as they were; fifty-one leave it
(44_signals.md R116, 70_reset_and_hazards.md R156). The clock goes high and low again for each edge. -/
def Obligations.FiftyEdgesAreNotEnough : Prop :=
  ∀ (s : State) (n : Nat) (rest : List Event),
    s.inputs = (List.replicate n [Event.clock .high, Event.clock .low]).flatten ++ rest →
    s.fault = false → s.sclk = .low → s.cs = false → s.sclkCnt = 0#6 → s.state = .programming →
    s.hdrLen.toNat ≤ 256 →
    (n ≤ 50 → ∃ t, runSteps (2 * n) s = .next t ∧
      t = { s with inputs := rest, sclkCnt := BitVec.ofNat 6 n, out := t.out }) ∧
    (n = 51 → ∃ t, runSteps (2 * n) s = .next t ∧ t.state = .acceptingCommand ∧ t.cdone = true ∧
      t.intn = .low ∧ t.sclkCnt = 51#6 ∧ t.cmdset ≠ .unknown)

/-- The reset assert edge de-asserts DONE and changes nothing else (70_reset_and_hazards.md R139). That it writes no
more than DONE and the latch is decision D10 with 90_conflicts.md C2, a choice (log 14). -/
def Obligations.ResetAssertEdge : Prop :=
  ∀ (s : State) (rest : List Event),
    s.inputs = .reset true :: rest → s.fault = false → s.rst = false →
    step s = .next { s with
      inputs := rest, rst := true, cdone := false, out := { writes := [.cdone false] } }

/-- The reset release edge (70_reset_and_hazards.md R140, R141; the registers by decision D10; log 14): it enters
Programming, raises INTN, clears the counter, the header length and the transient registers, and keeps the
framebuffer, the header's bytes, `redraw`, DONE and the input latches. -/
def Obligations.ResetReleaseEdge : Prop :=
  ∀ (s : State) (rest : List Event),
    s.inputs = .reset false :: rest → s.fault = false → s.rst = true →
    step s = .next { s with
      inputs := rest, rst := false, intn := .high, sclkCnt := 0#6, state := .programming, hdrLen := 0#9
      cmdset := .unknown, cmd := 0x00#8, param := 0#32, paramOff := 0#2, scene := 0x00#8, col := 0x00#8
      row := 0, out := { writes := [.intn .high] } }

/-- A reset event at the latched level does nothing (70_reset_and_hazards.md R142, decision D12; log 12). -/
def Obligations.ResetWithoutEdge : Prop :=
  ∀ (s : State) (r : Bool) (rest : List Event),
    s.inputs = .reset r :: rest → s.fault = false → s.rst = r →
    step s = .next { s with inputs := rest, out := {} }

/-- A complete reset pulse (70_reset_and_hazards.md R144). -/
def Obligations.ResetPulse : Prop :=
  ∀ (s : State) (rest : List Event),
    s.inputs = .reset true :: .reset false :: rest → s.fault = false → s.rst = false →
    runSteps 2 s = .next { s with
      inputs := rest, state := .programming, cmdset := .unknown, cmd := 0x00#8, param := 0#32
      paramOff := 0#2, scene := 0x00#8, col := 0x00#8, row := 0, hdrLen := 0#9, rst := false, sclkCnt := 0#6
      intn := .high, cdone := false, out := { writes := [.intn .high] } }

/-- 10_state.md R32, second clause, read over every run from power-on: DONE asserted implies that the counter
is at 51. Expected to FAIL: edges counted while reset is held assert DONE (R143), and the release edge that
follows zeroes the counter and keeps DONE (R140); log 22. -/
def Obligations.DoneImpliesCounterFull : Prop :=
  ∀ (es : List Event) (k : Nat) (t : State),
    runSteps k { State.reset with inputs := es } = .next t → t.cdone = true → t.sclkCnt = 51#6

/-! ## Rendering -/

/-- `Render` with `redraw` set reads every cell through the colour mapper and clears the flag; without it,
it does nothing; it writes nothing else (45_pixel_mapper_render.md R119; the pass as a list in address order is
the model's, D25, log 19). -/
def Obligations.RenderConvertsEveryCell : Prop :=
  ∀ (s : State) (rest : List Event), s.inputs = .render :: rest → s.fault = false →
    (s.redraw = true →
      ∃ px, step s = .next { s with inputs := rest, redraw := false, out := { pass := some px } } ∧
        px.length = 25456 ∧
        ∀ r c, r < 172 → c < 148 → px[r * 148 + c]? = some (colorMap (s.fbRead r c))) ∧
    (s.redraw = false → step s = .next { s with inputs := rest, out := {} })

/-- A second `Render` right after a first makes no pass (45_pixel_mapper_render.md R120). -/
def Obligations.SecondRenderMakesNoPass : Prop :=
  ∀ (s : State) (rest : List Event), s.inputs = .render :: .render :: rest → s.fault = false →
    runSteps 2 s = .next { s with inputs := rest, redraw := false, out := {} }

/-- The colour mapper (45_pixel_mapper_render.md R118): each channel is `channel * 255 / 3`, and two bytes have the
same colour exactly when they agree in their upper six bits. -/
def Obligations.ColourMapScalesChannels : Prop :=
  (∀ p : Byte, (colorMap p).red.toNat = p.toNat / 64 * 255 / 3 ∧
    (colorMap p).green.toNat = p.toNat / 16 % 4 * 255 / 3 ∧
    (colorMap p).blue.toNat = p.toNat / 4 % 4 * 255 / 3) ∧
  (∀ p q : Byte, colorMap p = colorMap q ↔ p.toNat / 4 = q.toNat / 4)

/-! ## The classifier -/

/-- The strings of a header are its runs of non-zero bytes between zero bytes: none holds a zero, and joined by
single zeros (with or without a last one) they are the header again (43_classifier.md R109; D6; log 15). -/
def Obligations.HeaderStringsAreTheRuns : Prop :=
  ∀ bs : List Byte,
    (∀ x ∈ headerStrings bs, 0x00#8 ∉ x) ∧
    (bs = List.intercalate [0x00#8] (headerStrings bs) ∨
      bs = List.intercalate [0x00#8] (headerStrings bs) ++ [0x00#8])

/-- The first string that begins with "Date:" decides, by the first table entry that is a prefix of it
(43_classifier.md R108, R110; D5, D6; log 15). -/
def Obligations.FirstDateStringDecides : Prop :=
  ∀ (table : List (List Byte × Vocabulary)) (m0 m1 : Byte) (pre : List (List Byte)) (d tail : List Byte),
    (∀ x ∈ pre, 0x00#8 ∉ x ∧ ¬ Config.dateMark <+: x) → 0x00#8 ∉ d → Config.dateMark <+: d →
    (tail = [] ∨ ∃ more, tail = 0x00#8 :: more) →
    classify table ([m0, m1] ++ (pre.map (· ++ [0x00#8])).flatten ++ d ++ tail) =
      match table.find? (fun e => decide (e.1 <+: d)) with
      | some e => (e.2, none)
      | none => (.set1, some (.dateNotRecognised d))

/-- With the default table a header whose first date string begins with the first known date selects Set0, with the
second Set1 (43_classifier.md R112, 30_encoding.md R69; the table is D5's default, log 3). -/
def Obligations.KnownDatesSelectSets : Prop :=
  ∀ (m0 m1 : Byte) (pre : List (List Byte)) (more tail : List Byte),
    (∀ x ∈ pre, 0x00#8 ∉ x ∧ ¬ Config.dateMark <+: x) → 0x00#8 ∉ more →
    (tail = [] ∨ ∃ z, tail = 0x00#8 :: z) →
    classify Config.defaults.dateTable
      ([m0, m1] ++ (pre.map (· ++ [0x00#8])).flatten ++ (Config.dateSet0 ++ more) ++ tail) = (.set0, none) ∧
    classify Config.defaults.dateTable
      ([m0, m1] ++ (pre.map (· ++ [0x00#8])).flatten ++ (Config.dateSet1 ++ more) ++ tail) = (.set1, none)

/-- A header without a string that begins with "Date:" selects Set1 with a diagnostic (43_classifier.md R111;
D6; log 15); a header of two bytes or fewer has no string. -/
def Obligations.NoDateStringSelectsSet1 : Prop :=
  ∀ (table : List (List Byte × Vocabulary)) (m0 m1 : Byte) (pre : List (List Byte)) (last short : List Byte),
    (∀ x ∈ pre, 0x00#8 ∉ x ∧ ¬ Config.dateMark <+: x) → 0x00#8 ∉ last → ¬ Config.dateMark <+: last →
    short.length ≤ 2 →
    classify table ([m0, m1] ++ (pre.map (· ++ [0x00#8])).flatten ++ last) = (.set1, some .noDateString) ∧
    classify table short = (.set1, some .noDateString)

/-! ## The whole machine -/

/-- The power-on state has the invariant (10_state.md R31 to R36, R38; its values are D8's, log 6). -/
def Obligations.ResetHasInvariant : Prop := Inv State.reset

/-- Every step keeps the invariant (10_state.md R31, R32 first clause, R33 to R36). -/
def Obligations.StepKeepsInvariant : Prop :=
  ∀ s t : State, Inv s → step s = .next t → Inv t

/-- From a state with the invariant no step faults or is refused, and the fatal condition does not occur; so no
sequence of events from power-on reaches it (10_state.md R31, 93_implementation_defined.md U1, U2). -/
def Obligations.NoFaultFromPowerOn : Prop :=
  (∀ s : State, Inv s → reportsFault (step s) = false) ∧
  (∀ (es : List Event) (k : Nat), reportsFault (runSteps k { State.reset with inputs := es }) = false)

/-- A step writes the framebuffer only for a scene byte or for a visible byte of a line (10_state.md R29). -/
def Obligations.FramebufferWriters : Prop :=
  ∀ s t : State, step s = .next t → t.fb ≠ s.fb →
    s.fault = false ∧ s.cs = true ∧ (∃ b rest, s.inputs = .byte b :: rest) ∧
      (s.state = .acceptingSceneByte ∨ s.state = .acceptingData ∧ 0 ≤ s.row ∧ s.row < 172)

/-- A step sets `redraw` only for the byte of a scene that draws or for FrameEnd, and clears it only for `Render`
(45_pixel_mapper_render.md R121). -/
def Obligations.RedrawWriters : Prop :=
  ∀ s t : State, step s = .next t →
    (s.redraw = false → t.redraw = true → ∃ b rest, s.inputs = .byte b :: rest ∧
      (s.state = .acceptingSceneByte ∧ b ∈ s.cfg.sceneIds ∨
        s.state = .acceptingCommand ∧ s.cmdset = .set1 ∧ b = s.cfg.cmd1FrameEnd)) ∧
    (s.redraw = true → t.redraw = false → ∃ rest, s.inputs = .render :: rest)

/-- The command set changes only at the clock edge that leaves Programming and at the reset release; no step
changes the parameters (10_state.md R13, 30_encoding.md R60; log 3). -/
def Obligations.CommandSetWriters : Prop :=
  ∀ s t : State, step s = .next t →
    t.cfg = s.cfg ∧
    (t.cmdset ≠ s.cmdset →
      (∃ rest, s.inputs = .clock .high :: rest) ∧ s.state = .programming ∧ t.state = .acceptingCommand ∨
      (∃ rest, s.inputs = .reset false :: rest) ∧ s.rst = true ∧ t.state = .programming)

/-- Every change of `state` is one of the table's (60_exceptions.md R133). -/
def Obligations.TransitionsAreListed : Prop :=
  ∀ (s t : State) (e : Event) (rest : List Event), Inv s → s.inputs = e :: rest → step s = .next t →
    transitionAllowed s.state e t.state = true

/-- The output registers after an event are the last of its writes, and INTN is written at most twice, then high
before low (10_state.md R19, R20, 60_exceptions.md R127, R129). -/
def Obligations.OutputsFollowWrites : Prop :=
  ∀ (s t : State) (e : Event) (rest : List Event), s.inputs = e :: rest → step s = .next t →
    t.intn = intnAfter s.intn t.out.writes ∧ t.cdone = doneAfter s.cdone t.out.writes ∧
    intnWrites t.out.writes ∈ [[], [.high], [.low], [Level.high, .low]]

/-- No step can tell two states apart that differ only in the header's bytes at and above `hdr_len`
(20_memory.md R46): power-on contents and stale bytes influence nothing. -/
def Obligations.StaleHeaderUnobservable : Prop :=
  ∀ s t : State, differInStaleHeader s t → OutcomeRel differInStaleHeader (step s) (step t)

/-- Nothing reads the parameter: states that differ only in it stay so (10_state.md R23). -/
def Obligations.ParameterUnobservable : Prop :=
  ∀ s t : State, differInParam s t → OutcomeRel differInParam (step s) (step t)

/-- Only the colours of a `Render` pass come from the framebuffer (20_memory.md R47): states that differ only in it
(and in the colours of the last pass) step to such states again, with a pass of the same size or none in both; and
an event puts out a pass only if it is a `Render` that finds `redraw` set. -/
def Obligations.FramebufferUnread : Prop :=
  (∀ s t : State, differInFramebuffer s t → OutcomeRel differInFramebuffer (step s) (step t)) ∧
  (∀ (s t : State) (e : Event) (rest : List Event), s.inputs = e :: rest → step s = .next t →
    t.out.pass ≠ none → e = .render ∧ s.redraw = true ∧ s.fault = false)
end

