-- ==== Sys2Proof/Laws/Decode.lean ====
section
/-!
SUPPORT. What the decoder answers: state by state, and which instructions each vocabulary has.
-/
namespace Sys2Proof.Machine

/-! The decoder on a state of the machine, by its sequencing register. -/

theorem decode_programming {s : State} (p : Params) (b : Byte) (h : s.state = .programming) :
    decode p s.mode b = .ok (.programmingByte b) := by
  unfold decode State.mode
  simp only [h]

theorem decode_set0 {s : State} (p : Params) (b : Byte) (h : s.state = .acceptingCommand) (hc : s.cmdset = .set0) :
    decode p s.mode b = .ok (decodeSet0 p b) := by
  unfold decode State.mode
  simp only [h, hc]

theorem decode_set1 {s : State} (p : Params) (b : Byte) (h : s.state = .acceptingCommand) (hc : s.cmdset = .set1) :
    decode p s.mode b = .ok (decodeSet1 p b) := by
  unfold decode State.mode
  simp only [h, hc]

theorem decode_fatal {s : State} (p : Params) (b : Byte) (h : s.state = .acceptingCommand)
    (hc : s.cmdset = .unknown) : decode p s.mode b = .error .unknownCommandSet := by
  unfold decode State.mode
  simp only [h, hc]

theorem decode_parameter {s : State} (p : Params) (b : Byte) (h : s.state = .acceptingParameter) :
    decode p s.mode b = .ok (.paramByte b) := by
  unfold decode State.mode
  simp only [h]

theorem decode_scene {s : State} (p : Params) (b : Byte) (h : s.state = .acceptingSceneByte)
    (hc : decodeSet0 p s.cmd = .drawScene) : decode p s.mode b = .ok (decodeScene p b) := by
  unfold decode State.mode
  simp only [h, hc, if_true]

theorem decode_scene_rejected {s : State} (p : Params) (b : Byte) (h : s.state = .acceptingSceneByte)
    (hc : decodeSet0 p s.cmd ≠ .drawScene) : decode p s.mode b = .error .sceneWithoutDrawScene := by
  unfold decode State.mode
  simp only [h, hc, if_false]

theorem decode_lineNumber {s : State} (p : Params) (b : Byte) (h : s.state = .acceptingLineNumber) :
    decode p s.mode b = .ok (.lineIndex b) := by
  unfold decode State.mode
  simp only [h]

theorem decode_data {s : State} (p : Params) (b : Byte) (h : s.state = .acceptingData) :
    decode p s.mode b = .ok (.lineData b) := by
  unfold decode State.mode
  simp only [h]

/-! Which instructions each vocabulary has, with the byte that gives them. -/

theorem decodeSet0_cases (p : Params) (b : Byte) :
    (b = p.cmd0Null ∧ decodeSet0 p b = .null) ∨
    (b = p.cmd0SetParameter ∧ decodeSet0 p b = .setParameter) ∨
    (b = p.cmd0DisplayOff ∧ decodeSet0 p b = .displayOff) ∨
    (b = p.cmd0DisplayOn ∧ decodeSet0 p b = .displayOn) ∨
    (b = p.cmd0DrawScene ∧ decodeSet0 p b = .drawScene) ∨
    (b ∉ p.set0Opcodes ∧ decodeSet0 p b = .unknown0 b) := by
  unfold decodeSet0 Params.set0Opcodes
  split_ifs <;> simp_all

theorem decodeSet1_cases (p : Params) (b : Byte) :
    (b = p.cmd1FrameBegin ∧ decodeSet1 p b = .frameBegin) ∨
    (b = p.cmd1FrameData ∧ decodeSet1 p b = .frameData) ∨
    (b = p.cmd1FrameEnd ∧ decodeSet1 p b = .frameEnd) ∨
    (b ∉ p.set1Opcodes ∧ decodeSet1 p b = .unknown1 b) := by
  unfold decodeSet1 Params.set1Opcodes
  split_ifs <;> simp_all

theorem decodeScene_cases (p : Params) (b : Byte) :
    (b = Config.sceneBlack ∧ decodeScene p b = .sceneBlack) ∨
    (b = p.sceneSplash ∧ decodeScene p b = .sceneSplash) ∨
    (b = Config.sceneUpdate ∧ decodeScene p b = .sceneUpdate) ∨
    (b = Config.sceneError ∧ decodeScene p b = .sceneError) ∨
    (b ∉ p.sceneIds ∧ decodeScene p b = .sceneUnknown b) := by
  unfold decodeScene Params.sceneIds
  split_ifs <;> simp_all

/-- With pairwise distinct opcodes DrawScene's byte decodes to DrawScene. -/
theorem decodeSet0_drawScene {p : Params} (h : p.wf = true) : decodeSet0 p p.cmd0DrawScene = .drawScene := by
  simp only [Params.wf, Params.set0Opcodes, Bool.and_eq_true, decide_eq_true_eq, List.nodup_cons, List.mem_cons,
    List.not_mem_nil, or_false, not_or] at h
  obtain ⟨⟨⟨h₀, h₁, h₂, h₃, -⟩, -⟩, -⟩ := h
  unfold decodeSet0
  rw [if_neg (Ne.symm h₀.2.2.2), if_neg (Ne.symm h₁.2.2), if_neg (Ne.symm h₂.2), if_neg (Ne.symm h₃), if_pos rfl]

end Sys2Proof.Machine
end

