-- ==== Sys2Proof/Laws/Memory.lean ====
section
/-!
SUPPORT. The laws of memory: a read after a write, what `build` lists, and that every memory operation keeps
the canonical form.
-/
namespace Sys2Proof.Machine

/-! What a write does to a lookup and to a read. -/

@[simp] theorem lookup_write_same (m : Memory) (x : Nat) (v : Byte) :
    Memory.lookup (Memory.write m x v) x = some v := by
  induction m with
  | nil => simp [Memory.write, Memory.lookup]
  | cons c m ih =>
    obtain ⟨a, b⟩ := c
    by_cases h₁ : x < a
    · simp [Memory.write, Memory.lookup, h₁]
    · by_cases h₂ : x = a
      · simp [Memory.write, Memory.lookup, h₂]
      · simp [Memory.write, Memory.lookup, h₁, h₂, Ne.symm h₂, ih]

theorem lookup_write_other (m : Memory) (x y : Nat) (v : Byte) (h : y ≠ x) :
    Memory.lookup (Memory.write m x v) y = Memory.lookup m y := by
  induction m with
  | nil => simp [Memory.write, Memory.lookup, h.symm]
  | cons c m ih =>
    obtain ⟨a, b⟩ := c
    by_cases h₁ : x < a
    · simp [Memory.write, Memory.lookup, h₁, h.symm]
    · by_cases h₂ : x = a
      · subst h₂; simp [Memory.write, Memory.lookup, h.symm]
      · simp [Memory.write, Memory.lookup, h₁, h₂, ih]

theorem lookup_write (m : Memory) (x y : Nat) (v : Byte) :
    Memory.lookup (Memory.write m x v) y = if y = x then some v else Memory.lookup m y := by
  split
  · subst_vars; simp
  · exact lookup_write_other m x y v ‹_›

theorem read_write (sp : Space) (m : Memory) (x y : Nat) (v : Byte) :
    Memory.read sp (Memory.write m x v) y = if y = x then v else Memory.read sp m y := by
  unfold Memory.read
  rw [lookup_write]
  split <;> rfl

theorem isSome_lookup_write (m : Memory) (x y : Nat) (v : Byte) (h : (Memory.lookup m y).isSome = true) :
    (Memory.lookup (Memory.write m x v) y).isSome = true := by
  rw [lookup_write]; split <;> simp [h]

/-- Where an address has been written, what an unwritten address reads as plays no part. -/
theorem read_of_lookup (sp : Space) (m : Memory) (a : Nat) (b : Byte) (h : Memory.lookup m a = some b) :
    Memory.read sp m a = b := by
  simp [Memory.read, h]

/-! What `build` lists. -/

/-- The cells of `build` from an address on. -/
theorem lookup_filterMap_range' (f : Nat → Option Byte) (n s a : Nat) :
    Memory.lookup ((List.range' s n).filterMap fun x => (f x).map fun b => (x, b)) a =
      if s ≤ a ∧ a < s + n then f a else none := by
  induction n generalizing s with
  | zero => simp [Memory.lookup]
  | succ n ih =>
    rw [List.range'_succ, List.filterMap_cons]
    by_cases h : s = a
    · subst h
      cases hf : f s with
      | none => simp [ih]
      | some b => simp [Memory.lookup]
    · have e : (s < a ∧ a < s + 1 + n) ↔ (s ≤ a ∧ a < s + (n + 1)) := by omega
      cases hf : f s with
      | none => simp [ih, e]
      | some b => simp [Memory.lookup, h, ih, e]

theorem lookup_build (n : Nat) (f : Nat → Option Byte) (a : Nat) :
    Memory.lookup (Memory.build n f) a = if a < n then f a else none := by
  simp [Memory.build, lookup_filterMap_range']

theorem lookup_fill (n : Nat) (v : Byte) (a : Nat) (h : a < n) :
    Memory.lookup (Memory.build n fun _ => some v) a = some v := by
  simp [lookup_build, h]

/-! The canonical form. -/

/-- Strictly rising addresses, as a pairwise relation. -/
theorem rising_iff_pairwise (m : Memory) :
    Memory.rising m = true ↔ m.Pairwise (fun c c' => c.1 < c'.1) := by
  induction m with
  | nil => simp [Memory.rising]
  | cons c m ih =>
    obtain ⟨a, b⟩ := c
    cases m with
    | nil => simp [Memory.rising]
    | cons c' m =>
      obtain ⟨a', b'⟩ := c'
      simp only [Memory.rising, Bool.and_eq_true, decide_eq_true_eq, ih, List.pairwise_cons, List.mem_cons]
      constructor
      · rintro ⟨h, h', hp⟩
        refine ⟨?_, h', hp⟩
        rintro x (rfl | hx)
        · exact h
        · exact lt_trans h (h' x hx)
      · rintro ⟨h, h', hp⟩
        exact ⟨h _ (Or.inl rfl), h', hp⟩

theorem wf_iff (sp : Space) (m : Memory) :
    Memory.wf sp m = true ↔ m.Pairwise (fun c c' => c.1 < c'.1) ∧ ∀ c ∈ m, c.1 < sp.size := by
  simp [Memory.wf, rising_iff_pairwise]

theorem wf_nil (sp : Space) : Memory.wf sp [] = true := rfl

/-- Every cell of the memory after a write is the written one or an old one. -/
theorem mem_write {m : Memory} {x : Nat} {v : Byte} {c : Host.Cell} (h : c ∈ Memory.write m x v) :
    c = (x, v) ∨ c ∈ m := by
  induction m with
  | nil => simpa [Memory.write] using h
  | cons d m ih =>
    obtain ⟨a, b⟩ := d
    simp only [Memory.write] at h
    split at h
    · simpa using h
    · split at h
      · rcases List.mem_cons.1 h with h | h
        · exact Or.inl h
        · exact Or.inr (List.mem_cons_of_mem _ h)
      · rcases List.mem_cons.1 h with h | h
        · exact Or.inr (h ▸ List.mem_cons_self)
        · rcases ih h with h | h
          · exact Or.inl h
          · exact Or.inr (List.mem_cons_of_mem _ h)

theorem pairwise_write {m : Memory} (x : Nat) (v : Byte) (h : m.Pairwise (fun c c' => c.1 < c'.1)) :
    (Memory.write m x v).Pairwise (fun c c' => c.1 < c'.1) := by
  induction m with
  | nil => simp [Memory.write]
  | cons d m ih =>
    obtain ⟨a, b⟩ := d
    rw [List.pairwise_cons] at h
    simp only [Memory.write]
    split
    · rename_i hx
      refine List.pairwise_cons.2 ⟨?_, List.pairwise_cons.2 h⟩
      intro c hc
      rcases List.mem_cons.1 hc with rfl | hc
      · exact hx
      · exact lt_trans hx (h.1 c hc)
    · split
      · rename_i hx
        subst hx
        exact List.pairwise_cons.2 h
      · refine List.pairwise_cons.2 ⟨?_, ih h.2⟩
        intro c hc
        rcases mem_write hc with rfl | hc
        · show a < x
          omega
        · exact h.1 c hc

/-- A write in range keeps the canonical form. -/
theorem write_keeps_wf {sp : Space} {m : Memory} {x : Nat} (v : Byte) (h : Memory.wf sp m = true)
    (hx : x < sp.size) : Memory.wf sp (Memory.write m x v) = true := by
  rw [wf_iff] at h ⊢
  refine ⟨pairwise_write x v h.1, fun c hc => ?_⟩
  rcases mem_write hc with rfl | hc
  · exact hx
  · exact h.2 c hc

/-- A built memory has the canonical form. -/
theorem build_wf {sp : Space} {n : Nat} (f : Nat → Option Byte) (hn : n ≤ sp.size) :
    Memory.wf sp (Memory.build n f) = true := by
  rw [wf_iff, Memory.build]
  constructor
  · rw [List.pairwise_filterMap]
    refine List.Pairwise.imp ?_ (List.pairwise_lt_range' (s := 0) (n := n) (step := 1))
    rintro a b hab c hc d hd
    simp only [Option.map_eq_some_iff] at hc hd
    obtain ⟨_, _, rfl⟩ := hc
    obtain ⟨_, _, rfl⟩ := hd
    exact hab
  · intro c hc
    simp only [List.mem_filterMap, List.mem_range'_1, Option.map_eq_some_iff] at hc
    obtain ⟨a, ⟨_, ha⟩, _, _, rfl⟩ := hc
    show a < sp.size
    omega

/-- Two canonical memories with the same written bytes are the same data. -/
theorem wf_ext {sp : Space} {m m' : Memory} (h : Memory.wf sp m = true) (h' : Memory.wf sp m' = true)
    (e : ∀ a, Memory.lookup m a = Memory.lookup m' a) : m = m' := by
  rw [wf_iff] at h h'
  replace h := h.1
  replace h' := h'.1
  have none_of : ∀ (n : Memory) (a : Nat), (∀ c ∈ n, a < c.1) → Memory.lookup n a = none := by
    intro n a
    induction n with
    | nil => simp [Memory.lookup]
    | cons c n ih =>
      obtain ⟨x, y⟩ := c
      intro hn
      have hx : a < x := hn _ List.mem_cons_self
      simp only [Memory.lookup]
      rw [if_neg (by omega), ih fun c hc => hn c (List.mem_cons_of_mem _ hc)]
  induction m generalizing m' with
  | nil =>
    cases m' with
    | nil => rfl
    | cons c' m' => simpa [Memory.lookup] using e c'.1
  | cons c m ih =>
    obtain ⟨a, b⟩ := c
    cases m' with
    | nil => simpa [Memory.lookup] using e a
    | cons c' m' =>
      obtain ⟨a', b'⟩ := c'
      rw [List.pairwise_cons] at h h'
      have ha : a = a' := by
        by_contra hne
        rcases Nat.lt_or_gt_of_ne hne with hl | hl
        · have := e a
          rw [none_of ((a', b') :: m') a] at this
          · simp [Memory.lookup] at this
          · intro c hc
            rcases List.mem_cons.1 hc with rfl | hc
            · exact hl
            · exact lt_trans hl (h'.1 c hc)
        · have := e a'
          rw [none_of ((a, b) :: m) a'] at this
          · simp [Memory.lookup] at this
          · intro c hc
            rcases List.mem_cons.1 hc with rfl | hc
            · exact hl
            · exact lt_trans hl (h.1 c hc)
      subst ha
      have hb : b = b' := by simpa [Memory.lookup] using e a
      subst hb
      congr 1
      refine ih (fun x => ?_) h.2 h'.2
      by_cases hx : a = x
      · subst hx
        rw [none_of m a h.1, none_of m' a h'.1]
      · simpa [Memory.lookup, hx] using e x

/-! The contents of a space. -/

@[simp] theorem contents_length (sp : Space) (m : Memory) : (Memory.contents sp m).length = sp.size := by
  simp [Memory.contents]

theorem contents_getElem? (sp : Space) (m : Memory) (a : Nat) (h : a < sp.size) :
    (Memory.contents sp m)[a]? = some (Memory.read sp m a) := by
  simp [Memory.contents, h]

/-! The framebuffer's addresses. -/

theorem fbAddr_lt {r c : Nat} (hr : r < Config.rows) (hc : c < Config.cols) : fbAddr r c < Space.fb.size := by
  simp only [fbAddr, Space.size, Config.fbSize, Config.rows, Config.cols] at *
  omega

theorem fbAddr_inj {r c r' c' : Nat} (hc : c < Config.cols) (hc' : c' < Config.cols)
    (h : fbAddr r c = fbAddr r' c') : r = r' ∧ c = c' := by
  simp only [fbAddr, Config.cols] at *
  omega

end Sys2Proof.Machine
end

