-- ==== Sys2Proof/Laws/State.lean ====
section
/-!
SUPPORT. One lemma per field for each update of the state, so that no proof unfolds a record update.
-/
namespace Sys2Proof.Machine

/-! Fields after `State.driveIntn l s`. -/

@[simp] theorem driveIntn_state (l : Level) (s : State) :
    (State.driveIntn l s).state = s.state := rfl
@[simp] theorem driveIntn_cmdset (l : Level) (s : State) :
    (State.driveIntn l s).cmdset = s.cmdset := rfl
@[simp] theorem driveIntn_cmd (l : Level) (s : State) :
    (State.driveIntn l s).cmd = s.cmd := rfl
@[simp] theorem driveIntn_param (l : Level) (s : State) :
    (State.driveIntn l s).param = s.param := rfl
@[simp] theorem driveIntn_paramOff (l : Level) (s : State) :
    (State.driveIntn l s).paramOff = s.paramOff := rfl
@[simp] theorem driveIntn_scene (l : Level) (s : State) :
    (State.driveIntn l s).scene = s.scene := rfl
@[simp] theorem driveIntn_col (l : Level) (s : State) :
    (State.driveIntn l s).col = s.col := rfl
@[simp] theorem driveIntn_row (l : Level) (s : State) :
    (State.driveIntn l s).row = s.row := rfl
@[simp] theorem driveIntn_hdr (l : Level) (s : State) :
    (State.driveIntn l s).hdr = s.hdr := rfl
@[simp] theorem driveIntn_hdrLen (l : Level) (s : State) :
    (State.driveIntn l s).hdrLen = s.hdrLen := rfl
@[simp] theorem driveIntn_cs (l : Level) (s : State) :
    (State.driveIntn l s).cs = s.cs := rfl
@[simp] theorem driveIntn_rst (l : Level) (s : State) :
    (State.driveIntn l s).rst = s.rst := rfl
@[simp] theorem driveIntn_sclk (l : Level) (s : State) :
    (State.driveIntn l s).sclk = s.sclk := rfl
@[simp] theorem driveIntn_sclkCnt (l : Level) (s : State) :
    (State.driveIntn l s).sclkCnt = s.sclkCnt := rfl
@[simp] theorem driveIntn_intn (l : Level) (s : State) :
    (State.driveIntn l s).intn = l := rfl
@[simp] theorem driveIntn_cdone (l : Level) (s : State) :
    (State.driveIntn l s).cdone = s.cdone := rfl
@[simp] theorem driveIntn_redraw (l : Level) (s : State) :
    (State.driveIntn l s).redraw = s.redraw := rfl
@[simp] theorem driveIntn_fb (l : Level) (s : State) :
    (State.driveIntn l s).fb = s.fb := rfl
@[simp] theorem driveIntn_fault (l : Level) (s : State) :
    (State.driveIntn l s).fault = s.fault := rfl
@[simp] theorem driveIntn_cfg (l : Level) (s : State) :
    (State.driveIntn l s).cfg = s.cfg := rfl
@[simp] theorem driveIntn_inputs (l : Level) (s : State) :
    (State.driveIntn l s).inputs = s.inputs := rfl
@[simp] theorem driveIntn_out (l : Level) (s : State) :
    (State.driveIntn l s).out = { s.out with writes := s.out.writes ++ [.intn l] } := rfl

/-! Fields after `State.driveDone a s`. -/

@[simp] theorem driveDone_state (a : Bool) (s : State) :
    (State.driveDone a s).state = s.state := rfl
@[simp] theorem driveDone_cmdset (a : Bool) (s : State) :
    (State.driveDone a s).cmdset = s.cmdset := rfl
@[simp] theorem driveDone_cmd (a : Bool) (s : State) :
    (State.driveDone a s).cmd = s.cmd := rfl
@[simp] theorem driveDone_param (a : Bool) (s : State) :
    (State.driveDone a s).param = s.param := rfl
@[simp] theorem driveDone_paramOff (a : Bool) (s : State) :
    (State.driveDone a s).paramOff = s.paramOff := rfl
@[simp] theorem driveDone_scene (a : Bool) (s : State) :
    (State.driveDone a s).scene = s.scene := rfl
@[simp] theorem driveDone_col (a : Bool) (s : State) :
    (State.driveDone a s).col = s.col := rfl
@[simp] theorem driveDone_row (a : Bool) (s : State) :
    (State.driveDone a s).row = s.row := rfl
@[simp] theorem driveDone_hdr (a : Bool) (s : State) :
    (State.driveDone a s).hdr = s.hdr := rfl
@[simp] theorem driveDone_hdrLen (a : Bool) (s : State) :
    (State.driveDone a s).hdrLen = s.hdrLen := rfl
@[simp] theorem driveDone_cs (a : Bool) (s : State) :
    (State.driveDone a s).cs = s.cs := rfl
@[simp] theorem driveDone_rst (a : Bool) (s : State) :
    (State.driveDone a s).rst = s.rst := rfl
@[simp] theorem driveDone_sclk (a : Bool) (s : State) :
    (State.driveDone a s).sclk = s.sclk := rfl
@[simp] theorem driveDone_sclkCnt (a : Bool) (s : State) :
    (State.driveDone a s).sclkCnt = s.sclkCnt := rfl
@[simp] theorem driveDone_intn (a : Bool) (s : State) :
    (State.driveDone a s).intn = s.intn := rfl
@[simp] theorem driveDone_cdone (a : Bool) (s : State) :
    (State.driveDone a s).cdone = a := rfl
@[simp] theorem driveDone_redraw (a : Bool) (s : State) :
    (State.driveDone a s).redraw = s.redraw := rfl
@[simp] theorem driveDone_fb (a : Bool) (s : State) :
    (State.driveDone a s).fb = s.fb := rfl
@[simp] theorem driveDone_fault (a : Bool) (s : State) :
    (State.driveDone a s).fault = s.fault := rfl
@[simp] theorem driveDone_cfg (a : Bool) (s : State) :
    (State.driveDone a s).cfg = s.cfg := rfl
@[simp] theorem driveDone_inputs (a : Bool) (s : State) :
    (State.driveDone a s).inputs = s.inputs := rfl
@[simp] theorem driveDone_out (a : Bool) (s : State) :
    (State.driveDone a s).out = { s.out with writes := s.out.writes ++ [.cdone a] } := rfl

/-! Fields after `State.emitDiag d s`. -/

@[simp] theorem emitDiag_state (d : Diag) (s : State) :
    (State.emitDiag d s).state = s.state := rfl
@[simp] theorem emitDiag_cmdset (d : Diag) (s : State) :
    (State.emitDiag d s).cmdset = s.cmdset := rfl
@[simp] theorem emitDiag_cmd (d : Diag) (s : State) :
    (State.emitDiag d s).cmd = s.cmd := rfl
@[simp] theorem emitDiag_param (d : Diag) (s : State) :
    (State.emitDiag d s).param = s.param := rfl
@[simp] theorem emitDiag_paramOff (d : Diag) (s : State) :
    (State.emitDiag d s).paramOff = s.paramOff := rfl
@[simp] theorem emitDiag_scene (d : Diag) (s : State) :
    (State.emitDiag d s).scene = s.scene := rfl
@[simp] theorem emitDiag_col (d : Diag) (s : State) :
    (State.emitDiag d s).col = s.col := rfl
@[simp] theorem emitDiag_row (d : Diag) (s : State) :
    (State.emitDiag d s).row = s.row := rfl
@[simp] theorem emitDiag_hdr (d : Diag) (s : State) :
    (State.emitDiag d s).hdr = s.hdr := rfl
@[simp] theorem emitDiag_hdrLen (d : Diag) (s : State) :
    (State.emitDiag d s).hdrLen = s.hdrLen := rfl
@[simp] theorem emitDiag_cs (d : Diag) (s : State) :
    (State.emitDiag d s).cs = s.cs := rfl
@[simp] theorem emitDiag_rst (d : Diag) (s : State) :
    (State.emitDiag d s).rst = s.rst := rfl
@[simp] theorem emitDiag_sclk (d : Diag) (s : State) :
    (State.emitDiag d s).sclk = s.sclk := rfl
@[simp] theorem emitDiag_sclkCnt (d : Diag) (s : State) :
    (State.emitDiag d s).sclkCnt = s.sclkCnt := rfl
@[simp] theorem emitDiag_intn (d : Diag) (s : State) :
    (State.emitDiag d s).intn = s.intn := rfl
@[simp] theorem emitDiag_cdone (d : Diag) (s : State) :
    (State.emitDiag d s).cdone = s.cdone := rfl
@[simp] theorem emitDiag_redraw (d : Diag) (s : State) :
    (State.emitDiag d s).redraw = s.redraw := rfl
@[simp] theorem emitDiag_fb (d : Diag) (s : State) :
    (State.emitDiag d s).fb = s.fb := rfl
@[simp] theorem emitDiag_fault (d : Diag) (s : State) :
    (State.emitDiag d s).fault = s.fault := rfl
@[simp] theorem emitDiag_cfg (d : Diag) (s : State) :
    (State.emitDiag d s).cfg = s.cfg := rfl
@[simp] theorem emitDiag_inputs (d : Diag) (s : State) :
    (State.emitDiag d s).inputs = s.inputs := rfl
@[simp] theorem emitDiag_out (d : Diag) (s : State) :
    (State.emitDiag d s).out = { s.out with diags := s.out.diags ++ [d] } := rfl

/-! Fields after `State.setRedraw p s`. -/

@[simp] theorem setRedraw_state (p : Bool) (s : State) :
    (State.setRedraw p s).state = s.state := rfl
@[simp] theorem setRedraw_cmdset (p : Bool) (s : State) :
    (State.setRedraw p s).cmdset = s.cmdset := rfl
@[simp] theorem setRedraw_cmd (p : Bool) (s : State) :
    (State.setRedraw p s).cmd = s.cmd := rfl
@[simp] theorem setRedraw_param (p : Bool) (s : State) :
    (State.setRedraw p s).param = s.param := rfl
@[simp] theorem setRedraw_paramOff (p : Bool) (s : State) :
    (State.setRedraw p s).paramOff = s.paramOff := rfl
@[simp] theorem setRedraw_scene (p : Bool) (s : State) :
    (State.setRedraw p s).scene = s.scene := rfl
@[simp] theorem setRedraw_col (p : Bool) (s : State) :
    (State.setRedraw p s).col = s.col := rfl
@[simp] theorem setRedraw_row (p : Bool) (s : State) :
    (State.setRedraw p s).row = s.row := rfl
@[simp] theorem setRedraw_hdr (p : Bool) (s : State) :
    (State.setRedraw p s).hdr = s.hdr := rfl
@[simp] theorem setRedraw_hdrLen (p : Bool) (s : State) :
    (State.setRedraw p s).hdrLen = s.hdrLen := rfl
@[simp] theorem setRedraw_cs (p : Bool) (s : State) :
    (State.setRedraw p s).cs = s.cs := rfl
@[simp] theorem setRedraw_rst (p : Bool) (s : State) :
    (State.setRedraw p s).rst = s.rst := rfl
@[simp] theorem setRedraw_sclk (p : Bool) (s : State) :
    (State.setRedraw p s).sclk = s.sclk := rfl
@[simp] theorem setRedraw_sclkCnt (p : Bool) (s : State) :
    (State.setRedraw p s).sclkCnt = s.sclkCnt := rfl
@[simp] theorem setRedraw_intn (p : Bool) (s : State) :
    (State.setRedraw p s).intn = s.intn := rfl
@[simp] theorem setRedraw_cdone (p : Bool) (s : State) :
    (State.setRedraw p s).cdone = s.cdone := rfl
@[simp] theorem setRedraw_redraw (p : Bool) (s : State) :
    (State.setRedraw p s).redraw = p := rfl
@[simp] theorem setRedraw_fb (p : Bool) (s : State) :
    (State.setRedraw p s).fb = s.fb := rfl
@[simp] theorem setRedraw_fault (p : Bool) (s : State) :
    (State.setRedraw p s).fault = s.fault := rfl
@[simp] theorem setRedraw_cfg (p : Bool) (s : State) :
    (State.setRedraw p s).cfg = s.cfg := rfl
@[simp] theorem setRedraw_inputs (p : Bool) (s : State) :
    (State.setRedraw p s).inputs = s.inputs := rfl
@[simp] theorem setRedraw_out (p : Bool) (s : State) :
    (State.setRedraw p s).out = s.out := rfl

/-! Fields after `State.acceptCommand b s`. -/

@[simp] theorem acceptCommand_state (b : Byte) (s : State) :
    (State.acceptCommand b s).state = s.state := rfl
@[simp] theorem acceptCommand_cmdset (b : Byte) (s : State) :
    (State.acceptCommand b s).cmdset = s.cmdset := rfl
@[simp] theorem acceptCommand_cmd (b : Byte) (s : State) :
    (State.acceptCommand b s).cmd = b := rfl
@[simp] theorem acceptCommand_param (b : Byte) (s : State) :
    (State.acceptCommand b s).param = s.param := rfl
@[simp] theorem acceptCommand_paramOff (b : Byte) (s : State) :
    (State.acceptCommand b s).paramOff = s.paramOff := rfl
@[simp] theorem acceptCommand_scene (b : Byte) (s : State) :
    (State.acceptCommand b s).scene = s.scene := rfl
@[simp] theorem acceptCommand_col (b : Byte) (s : State) :
    (State.acceptCommand b s).col = s.col := rfl
@[simp] theorem acceptCommand_row (b : Byte) (s : State) :
    (State.acceptCommand b s).row = s.row := rfl
@[simp] theorem acceptCommand_hdr (b : Byte) (s : State) :
    (State.acceptCommand b s).hdr = s.hdr := rfl
@[simp] theorem acceptCommand_hdrLen (b : Byte) (s : State) :
    (State.acceptCommand b s).hdrLen = s.hdrLen := rfl
@[simp] theorem acceptCommand_cs (b : Byte) (s : State) :
    (State.acceptCommand b s).cs = s.cs := rfl
@[simp] theorem acceptCommand_rst (b : Byte) (s : State) :
    (State.acceptCommand b s).rst = s.rst := rfl
@[simp] theorem acceptCommand_sclk (b : Byte) (s : State) :
    (State.acceptCommand b s).sclk = s.sclk := rfl
@[simp] theorem acceptCommand_sclkCnt (b : Byte) (s : State) :
    (State.acceptCommand b s).sclkCnt = s.sclkCnt := rfl
@[simp] theorem acceptCommand_intn (b : Byte) (s : State) :
    (State.acceptCommand b s).intn = .high := rfl
@[simp] theorem acceptCommand_cdone (b : Byte) (s : State) :
    (State.acceptCommand b s).cdone = s.cdone := rfl
@[simp] theorem acceptCommand_redraw (b : Byte) (s : State) :
    (State.acceptCommand b s).redraw = s.redraw := rfl
@[simp] theorem acceptCommand_fb (b : Byte) (s : State) :
    (State.acceptCommand b s).fb = s.fb := rfl
@[simp] theorem acceptCommand_fault (b : Byte) (s : State) :
    (State.acceptCommand b s).fault = s.fault := rfl
@[simp] theorem acceptCommand_cfg (b : Byte) (s : State) :
    (State.acceptCommand b s).cfg = s.cfg := rfl
@[simp] theorem acceptCommand_inputs (b : Byte) (s : State) :
    (State.acceptCommand b s).inputs = s.inputs := rfl
@[simp] theorem acceptCommand_out (b : Byte) (s : State) :
    (State.acceptCommand b s).out = { s.out with writes := s.out.writes ++ [.intn .high] } := rfl

/-! Fields after `State.complete true s`. -/

@[simp] theorem complete_state (s : State) :
    (State.complete true s).state = .acceptingCommand := rfl
@[simp] theorem complete_cmdset (s : State) :
    (State.complete true s).cmdset = s.cmdset := rfl
@[simp] theorem complete_cmd (s : State) :
    (State.complete true s).cmd = s.cmd := rfl
@[simp] theorem complete_param (s : State) :
    (State.complete true s).param = s.param := rfl
@[simp] theorem complete_paramOff (s : State) :
    (State.complete true s).paramOff = 0#2 := rfl
@[simp] theorem complete_scene (s : State) :
    (State.complete true s).scene = s.scene := rfl
@[simp] theorem complete_col (s : State) :
    (State.complete true s).col = s.col := rfl
@[simp] theorem complete_row (s : State) :
    (State.complete true s).row = s.row := rfl
@[simp] theorem complete_hdr (s : State) :
    (State.complete true s).hdr = s.hdr := rfl
@[simp] theorem complete_hdrLen (s : State) :
    (State.complete true s).hdrLen = s.hdrLen := rfl
@[simp] theorem complete_cs (s : State) :
    (State.complete true s).cs = s.cs := rfl
@[simp] theorem complete_rst (s : State) :
    (State.complete true s).rst = s.rst := rfl
@[simp] theorem complete_sclk (s : State) :
    (State.complete true s).sclk = s.sclk := rfl
@[simp] theorem complete_sclkCnt (s : State) :
    (State.complete true s).sclkCnt = s.sclkCnt := rfl
@[simp] theorem complete_intn (s : State) :
    (State.complete true s).intn = .low := rfl
@[simp] theorem complete_cdone (s : State) :
    (State.complete true s).cdone = s.cdone := rfl
@[simp] theorem complete_redraw (s : State) :
    (State.complete true s).redraw = s.redraw := rfl
@[simp] theorem complete_fb (s : State) :
    (State.complete true s).fb = s.fb := rfl
@[simp] theorem complete_fault (s : State) :
    (State.complete true s).fault = s.fault := rfl
@[simp] theorem complete_cfg (s : State) :
    (State.complete true s).cfg = s.cfg := rfl
@[simp] theorem complete_inputs (s : State) :
    (State.complete true s).inputs = s.inputs := rfl
@[simp] theorem complete_out (s : State) :
    (State.complete true s).out = { s.out with writes := s.out.writes ++ [.intn .low] } := rfl

/-! Fields after `State.fbFill v s`. -/

@[simp] theorem fbFill_state (v : Byte) (s : State) :
    (State.fbFill v s).state = s.state := rfl
@[simp] theorem fbFill_cmdset (v : Byte) (s : State) :
    (State.fbFill v s).cmdset = s.cmdset := rfl
@[simp] theorem fbFill_cmd (v : Byte) (s : State) :
    (State.fbFill v s).cmd = s.cmd := rfl
@[simp] theorem fbFill_param (v : Byte) (s : State) :
    (State.fbFill v s).param = s.param := rfl
@[simp] theorem fbFill_paramOff (v : Byte) (s : State) :
    (State.fbFill v s).paramOff = s.paramOff := rfl
@[simp] theorem fbFill_scene (v : Byte) (s : State) :
    (State.fbFill v s).scene = s.scene := rfl
@[simp] theorem fbFill_col (v : Byte) (s : State) :
    (State.fbFill v s).col = s.col := rfl
@[simp] theorem fbFill_row (v : Byte) (s : State) :
    (State.fbFill v s).row = s.row := rfl
@[simp] theorem fbFill_hdr (v : Byte) (s : State) :
    (State.fbFill v s).hdr = s.hdr := rfl
@[simp] theorem fbFill_hdrLen (v : Byte) (s : State) :
    (State.fbFill v s).hdrLen = s.hdrLen := rfl
@[simp] theorem fbFill_cs (v : Byte) (s : State) :
    (State.fbFill v s).cs = s.cs := rfl
@[simp] theorem fbFill_rst (v : Byte) (s : State) :
    (State.fbFill v s).rst = s.rst := rfl
@[simp] theorem fbFill_sclk (v : Byte) (s : State) :
    (State.fbFill v s).sclk = s.sclk := rfl
@[simp] theorem fbFill_sclkCnt (v : Byte) (s : State) :
    (State.fbFill v s).sclkCnt = s.sclkCnt := rfl
@[simp] theorem fbFill_intn (v : Byte) (s : State) :
    (State.fbFill v s).intn = s.intn := rfl
@[simp] theorem fbFill_cdone (v : Byte) (s : State) :
    (State.fbFill v s).cdone = s.cdone := rfl
@[simp] theorem fbFill_redraw (v : Byte) (s : State) :
    (State.fbFill v s).redraw = s.redraw := rfl
@[simp] theorem fbFill_fb (v : Byte) (s : State) :
    (State.fbFill v s).fb = Memory.build Config.fbSize fun _ => some v := rfl
@[simp] theorem fbFill_fault (v : Byte) (s : State) :
    (State.fbFill v s).fault = s.fault := rfl
@[simp] theorem fbFill_cfg (v : Byte) (s : State) :
    (State.fbFill v s).cfg = s.cfg := rfl
@[simp] theorem fbFill_inputs (v : Byte) (s : State) :
    (State.fbFill v s).inputs = s.inputs := rfl
@[simp] theorem fbFill_out (v : Byte) (s : State) :
    (State.fbFill v s).out = s.out := rfl

/-! Fields after `State.receive s e rest`. -/

@[simp] theorem receive_state (e : Event) (rest : List Event) (s : State) :
    (State.receive s e rest).state = s.state := rfl
@[simp] theorem receive_cmdset (e : Event) (rest : List Event) (s : State) :
    (State.receive s e rest).cmdset = s.cmdset := rfl
@[simp] theorem receive_cmd (e : Event) (rest : List Event) (s : State) :
    (State.receive s e rest).cmd = s.cmd := rfl
@[simp] theorem receive_param (e : Event) (rest : List Event) (s : State) :
    (State.receive s e rest).param = s.param := rfl
@[simp] theorem receive_paramOff (e : Event) (rest : List Event) (s : State) :
    (State.receive s e rest).paramOff = s.paramOff := rfl
@[simp] theorem receive_scene (e : Event) (rest : List Event) (s : State) :
    (State.receive s e rest).scene = s.scene := rfl
@[simp] theorem receive_col (e : Event) (rest : List Event) (s : State) :
    (State.receive s e rest).col = s.col := rfl
@[simp] theorem receive_row (e : Event) (rest : List Event) (s : State) :
    (State.receive s e rest).row = s.row := rfl
@[simp] theorem receive_hdr (e : Event) (rest : List Event) (s : State) :
    (State.receive s e rest).hdr = s.hdr := rfl
@[simp] theorem receive_hdrLen (e : Event) (rest : List Event) (s : State) :
    (State.receive s e rest).hdrLen = s.hdrLen := rfl
@[simp] theorem receive_cs (e : Event) (rest : List Event) (s : State) :
    (State.receive s e rest).cs = s.cs := rfl
@[simp] theorem receive_rst (e : Event) (rest : List Event) (s : State) :
    (State.receive s e rest).rst = s.rst := rfl
@[simp] theorem receive_sclk (e : Event) (rest : List Event) (s : State) :
    (State.receive s e rest).sclk = s.sclk := rfl
@[simp] theorem receive_sclkCnt (e : Event) (rest : List Event) (s : State) :
    (State.receive s e rest).sclkCnt = s.sclkCnt := rfl
@[simp] theorem receive_intn (e : Event) (rest : List Event) (s : State) :
    (State.receive s e rest).intn = s.intn := rfl
@[simp] theorem receive_cdone (e : Event) (rest : List Event) (s : State) :
    (State.receive s e rest).cdone = s.cdone := rfl
@[simp] theorem receive_redraw (e : Event) (rest : List Event) (s : State) :
    (State.receive s e rest).redraw = s.redraw := rfl
@[simp] theorem receive_fb (e : Event) (rest : List Event) (s : State) :
    (State.receive s e rest).fb = s.fb := rfl
@[simp] theorem receive_fault (e : Event) (rest : List Event) (s : State) :
    (State.receive s e rest).fault = s.fault := rfl
@[simp] theorem receive_cfg (e : Event) (rest : List Event) (s : State) :
    (State.receive s e rest).cfg = s.cfg := rfl
@[simp] theorem receive_inputs (e : Event) (rest : List Event) (s : State) :
    (State.receive s e rest).inputs = rest := rfl
@[simp] theorem receive_out (e : Event) (rest : List Event) (s : State) :
    (State.receive s e rest).out = { miso := returnedByte s e } := rfl

end Sys2Proof.Machine
end

