-- ==== Sys2Proof/Laws/Ops.lean ====
section
/-!
SUPPORT. For each shared operation, once, everything it can do; and the inversion of the step.
-/
namespace Sys2Proof.Machine

/-! Operands. -/

/-- The class of a data byte, by the ranges of the row cursor. -/
theorem rowClass_eq (row : Int) :
    (rowClass row = .trigger ∧ row = -17) ∨ (rowClass row = .bottomPadding ∧ 172 ≤ row) ∨
      (rowClass row = .visible ∧ 0 ≤ row ∧ row < 172) ∨
      (rowClass row = .topPadding ∧ row < 0 ∧ row ≠ -17) := by
  unfold rowClass
  simp only [Config.topPad, Config.rows]
  by_cases h₁ : row = -((17 : Nat) : Int)
  · rw [if_pos h₁]
    exact Or.inl ⟨rfl, by omega⟩
  · rw [if_neg h₁]
    by_cases h₂ : row ≥ ((172 : Nat) : Int)
    · rw [if_pos h₂]
      exact Or.inr (Or.inl ⟨rfl, by omega⟩)
    · rw [if_neg h₂]
      by_cases h₃ : row ≥ 0
      · rw [if_pos h₃]
        exact Or.inr (Or.inr (Or.inl ⟨rfl, by omega, by omega⟩))
      · rw [if_neg h₃]
        exact Or.inr (Or.inr (Or.inr ⟨rfl, by omega, by omega⟩))

/-- The column of a line is always in range. -/
theorem columnOf_lt (b : Byte) : (columnOf b).toNat < Config.cols := by
  unfold columnOf
  split
  · simpa [columnInRange] using ‹columnInRange b = true›
  · decide

theorem columnOf_of_lt {b : Byte} (h : b.toNat < Config.cols) : columnOf b = b := by
  simp [columnOf, columnInRange, h]

/-- The bits of the parameter after a lane is inserted: the lane's bits are the byte's, the others stand. -/
theorem getLsbD_setLane (p : BitVec 32) (k : BitVec 2) (b : Byte) (i : Nat) (hi : i < 32) :
    (setLane p k b).getLsbD i =
      if 8 * k.toNat ≤ i ∧ i < 8 * k.toNat + 8 then b.getLsbD (i - 8 * k.toNat) else p.getLsbD i := by
  have hff : ∀ j, (0xFF#32).getLsbD j = decide (j < 8) := by
    intro j
    by_cases hj : j < 32
    · have : ∀ j : Fin 32, (0xFF#32).getLsbD j = decide (j.val < 8) := by decide
      exact this ⟨j, hj⟩
    · rw [BitVec.getLsbD_of_ge _ _ (by omega)]
      simp; omega
  simp only [setLane, BitVec.getLsbD_or, BitVec.getLsbD_and, BitVec.getLsbD_not, BitVec.getLsbD_shiftLeft,
    BitVec.getLsbD_setWidth, hff, hi, decide_true, Bool.true_and]
  by_cases h₁ : i < 8 * k.toNat
  · simp [h₁]
  · by_cases h₂ : i < 8 * k.toNat + 8
    · have e : i - 8 * k.toNat < 8 := by omega
      have e' : i - 8 * k.toNat < 32 := by omega
      have e₃ : 8 * k.toNat ≤ i ∧ i < 8 * k.toNat + 8 := by omega
      simp [h₁, e, e', e₃]
    · have e : ¬ (i - 8 * k.toNat < 8) := by omega
      have e₃ : ¬ (8 * k.toNat ≤ i ∧ i < 8 * k.toNat + 8) := by omega
      have e₄ : b.getLsbD (i - 8 * k.toNat) = false := BitVec.getLsbD_of_ge _ _ (by omega)
      simp [h₁, e, e₃, e₄]

/-! The framebuffer and the header. -/

/-- `FbWrite` answers exactly in range, and then changes the one cell. -/
theorem fbWrite_eq_some {s t : State} {r c : Nat} {v : Byte} :
    State.fbWrite s r c v = some t ↔
      (r < Config.rows ∧ c < Config.cols) ∧ t = { s with fb := Memory.write s.fb (fbAddr r c) v } := by
  unfold State.fbWrite
  split <;> simp_all [eq_comm]

theorem fbWrite_eq_none {s : State} {r c : Nat} {v : Byte} :
    State.fbWrite s r c v = none ↔ ¬ (r < Config.rows ∧ c < Config.cols) := by
  unfold State.fbWrite
  split <;> simp_all

/-- `HdrAppend`: the byte at the end while there is room, else nothing. -/
theorem hdrAppend_cases (b : Byte) (s : State) :
    (s.hdrLen.toNat < Config.hdrCap ∧
      State.hdrAppend b s =
        { s with hdr := Memory.write s.hdr s.hdrLen.toNat b, hdrLen := s.hdrLen + 1#9 }) ∨
    (Config.hdrCap ≤ s.hdrLen.toNat ∧ State.hdrAppend b s = s) := by
  unfold State.hdrAppend
  split
  · exact Or.inl ⟨‹_›, rfl⟩
  · exact Or.inr ⟨by omega, rfl⟩

/-- The splash leaves a cell alone or gives it a value with two low bits of zero. -/
theorem lookup_splashRender (fb : Memory) (a : Nat) (h : a < Config.fbSize) :
    (∃ v, Config.splashPixel (Memory.contents .fb fb) a = some v ∧
      Memory.lookup (splashRender fb) a = some (v ++ 0#2)) ∨
    (Config.splashPixel (Memory.contents .fb fb) a = none ∧
      Memory.lookup (splashRender fb) a = Memory.lookup fb a) := by
  unfold splashRender
  rw [lookup_build, if_pos h]
  cases hs : Config.splashPixel (Memory.contents .fb fb) a with
  | none => exact Or.inr ⟨rfl, rfl⟩
  | some v => exact Or.inl ⟨v, rfl, rfl⟩

theorem splashRender_wf (fb : Memory) : Memory.wf .fb (splashRender fb) = true :=
  build_wf _ (Nat.le_refl _)

/-! Accepting and completing. -/

theorem acceptCommand_eq (b : Byte) (s : State) :
    State.acceptCommand b s =
      { s with cmd := b, intn := .high, out := { s.out with writes := s.out.writes ++ [.intn .high] } } := rfl

theorem complete_true_eq (s : State) :
    State.complete true s =
      { s with
        intn := .low, out := { s.out with writes := s.out.writes ++ [.intn .low] }
        state := .acceptingCommand, paramOff := 0#2 } := rfl

theorem complete_false_eq (s : State) :
    State.complete false s = { s with state := .acceptingCommand, paramOff := 0#2 } := rfl

theorem raiseFatal_eq (b : Byte) (s : State) :
    State.raiseFatal b s =
      { s with
        cmd := b, intn := .high, fault := true
        out := { s.out with writes := s.out.writes ++ [.intn .high] } } := rfl

theorem unknownCommand_eq (b : Byte) (s : State) :
    State.unknownCommand b s =
      { s with
        cmd := b, intn := .low, state := .acceptingCommand, paramOff := 0#2
        out := { s.out with
          writes := s.out.writes ++ [.intn .high, .intn .low]
          diags := s.out.diags ++ [.unknownCommand b] } } := by
  simp [State.unknownCommand, complete_true_eq, acceptCommand_eq, State.emitDiag]

/-- A scene that draws by replacing the framebuffer. -/
theorem drawn_eq (id : Byte) (draw : State → State) (f : Memory → Memory)
    (h : ∀ t : State, draw t = { t with fb := f t.fb }) (s : State) :
    State.drawn id draw s =
      { s with
        scene := id, fb := f s.fb, redraw := true, intn := .low, state := .acceptingCommand, paramOff := 0#2
        out := { s.out with writes := s.out.writes ++ [.intn .low] } } := by
  simp only [State.drawn, h]
  rfl

/-- The re-invocation with another command completes, or starts SetParameter; it draws nothing. -/
theorem reinvoke_cases (b : Byte) (s : State) :
    State.reinvoke b s = State.complete true { s with scene := b } ∨
    State.reinvoke b s = { s with scene := b, state := .acceptingParameter } ∨
    State.reinvoke b s = State.complete true (State.emitDiag (.unknownCommand s.cmd) { s with scene := b }) := by
  unfold State.reinvoke
  simp only
  split_ifs <;> simp

/-! The classifier and the signals. -/

/-- Running the classifier writes the command set and the event's diagnostics, nothing else. -/
theorem classifyHeader_eq (s : State) :
    State.classifyHeader s =
      { s with
        cmdset := (classify s.cfg.dateTable s.captured).1.toCmdSet
        out := { s.out with diags := s.out.diags ++ (classify s.cfg.dateTable s.captured).2.toList } } := by
  unfold State.classifyHeader
  cases h : (classify s.cfg.dateTable s.captured).2 <;> simp [h, State.emitDiag]

theorem toCmdSet_ne_unknown (v : Vocabulary) : v.toCmdSet ≠ .unknown := by
  cases v <;> simp [Vocabulary.toCmdSet]

theorem leaveProgramming_cases (s : State) :
    (s.hdrLen.toNat ≤ Config.hdrCap ∧
      leaveProgramming s = .next (State.classifyHeader (State.complete true s))) ∨
    (Config.hdrCap < s.hdrLen.toNat ∧ leaveProgramming s = .fault .hdrOutOfRange) := by
  unfold leaveProgramming
  split
  · exact Or.inl ⟨‹_›, rfl⟩
  · exact Or.inr ⟨by omega, rfl⟩

/-- What a clock event does: it latches the level; or it counts as well; or it is the edge that asserts DONE,
in Programming also the exit from it. -/
theorem onClock_cases (l : Level) (s : State) :
    (¬ (rising s.sclk l = true ∧ s.cs = false ∧ s.sclkCnt.toNat ≤ 50) ∧ onClock l s = .next { s with sclk := l }) ∨
    ((rising s.sclk l = true ∧ s.cs = false ∧ s.sclkCnt.toNat < 50) ∧
      onClock l s = .next { s with sclk := l, sclkCnt := s.sclkCnt + 1#6 }) ∨
    ((rising s.sclk l = true ∧ s.cs = false ∧ s.sclkCnt.toNat = 50) ∧ s.state ≠ .programming ∧
      onClock l s = .next (State.driveDone true { s with sclk := l, sclkCnt := s.sclkCnt + 1#6 })) ∨
    ((rising s.sclk l = true ∧ s.cs = false ∧ s.sclkCnt.toNat = 50) ∧ s.state = .programming ∧
      onClock l s =
        leaveProgramming (State.driveDone true { s with sclk := l, sclkCnt := s.sclkCnt + 1#6 })) := by
  have hadd : s.sclkCnt.toNat ≤ 50 → (s.sclkCnt + 1#6).toNat = s.sclkCnt.toNat + 1 := by
    intro h
    simp only [BitVec.toNat_add, BitVec.toNat_ofNat]
    omega
  unfold onClock
  simp only [Config.sclkThreshold]
  by_cases h : rising s.sclk l = true ∧ s.cs = false ∧ s.sclkCnt.toNat ≤ 50
  · rw [if_pos h]
    have hn := hadd h.2.2
    by_cases h₁ : (s.sclkCnt + 1#6).toNat > 50
    · have h₂ : rising s.sclk l = true ∧ s.cs = false ∧ s.sclkCnt.toNat = 50 := ⟨h.1, h.2.1, by omega⟩
      rw [if_pos h₁]
      by_cases h₃ : s.state = .programming
      · rw [if_pos h₃]
        exact Or.inr (Or.inr (Or.inr ⟨h₂, h₃, rfl⟩))
      · rw [if_neg h₃]
        exact Or.inr (Or.inr (Or.inl ⟨h₂, h₃, rfl⟩))
    · rw [if_neg h₁]
      exact Or.inr (Or.inl ⟨⟨h.1, h.2.1, by omega⟩, rfl⟩)
  · rw [if_neg h]
    exact Or.inl ⟨h, rfl⟩

/-- What a chip-select event does: nothing without an edge; the abort on an edge to inactive outside
Programming; else the latch alone. -/
theorem onChipSelect_cases (a : Bool) (s : State) :
    (a = s.cs ∧ onChipSelect a s = s) ∨
    (a = false ∧ s.cs = true ∧ s.state ≠ .programming ∧
      onChipSelect a s = State.complete true { s with cs := false }) ∨
    (a ≠ s.cs ∧ (a = true ∨ s.state = .programming) ∧ onChipSelect a s = { s with cs := a }) := by
  unfold onChipSelect
  by_cases h : a = s.cs
  · exact Or.inl ⟨h, if_pos h⟩
  · rw [if_neg h]
    simp only
    by_cases h₁ : a = false ∧ s.state ≠ .programming
    · obtain ⟨rfl, h₂⟩ := h₁
      rw [if_pos ⟨rfl, h₂⟩]
      have h₃ : s.cs = true := by
        cases hc : s.cs
        · exact absurd hc.symm h
        · rfl
      exact Or.inr (Or.inl ⟨rfl, h₃, h₂, rfl⟩)
    · rw [if_neg h₁]
      refine Or.inr (Or.inr ⟨h, ?_, rfl⟩)
      by_contra hn
      push Not at hn
      exact h₁ ⟨by simpa using hn.1, hn.2⟩

theorem onReset_cases (r : Bool) (s : State) :
    (r = s.rst ∧ onReset r s = s) ∨
    (r = true ∧ s.rst = false ∧ onReset r s = resetAsserted s) ∨
    (r = false ∧ s.rst = true ∧ onReset r s = resetReleased s) := by
  unfold onReset
  cases r <;> cases h : s.rst <;> simp

theorem onRender_cases (s : State) :
    (s.redraw = false ∧ onRender s = s) ∨
    (s.redraw = true ∧
      onRender s = { s with redraw := false, out := { s.out with pass := some (renderPass s.fb) } }) := by
  unfold onRender
  cases h : s.redraw
  · exact Or.inl ⟨rfl, rfl⟩
  · exact Or.inr ⟨rfl, rfl⟩

/-! Line data and parameter bytes. -/

/-- What a data byte does, by the row cursor. -/
theorem execLineData_cases (b : Byte) (s : State) :
    (s.row = -17 ∧ execLineData b s = .next (State.driveIntn .low { s with state := .acceptingLineNumber })) ∨
    ((172 ≤ s.row ∨ s.row < 0 ∧ s.row ≠ -17) ∧ execLineData b s = .next { s with row := s.row - 1 }) ∨
    ((0 ≤ s.row ∧ s.row < 172) ∧ s.col.toNat < 148 ∧
      execLineData b s =
        .next { s with fb := Memory.write s.fb (fbAddr s.row.toNat s.col.toNat) b, row := s.row - 1 }) ∨
    ((0 ≤ s.row ∧ s.row < 172) ∧ 148 ≤ s.col.toNat ∧ execLineData b s = .fault .fbOutOfRange) := by
  rcases rowClass_eq s.row with ⟨hc, h⟩ | ⟨hc, h⟩ | ⟨hc, h⟩ | ⟨hc, h⟩
  · exact Or.inl ⟨h, by simp only [execLineData, hc]⟩
  · exact Or.inr (Or.inl ⟨Or.inl h, by simp only [execLineData, hc]⟩)
  · by_cases hcol : s.col.toNat < 148
    · refine Or.inr (Or.inr (Or.inl ⟨h, hcol, ?_⟩))
      have hr : s.row.toNat < Config.rows ∧ s.col.toNat < Config.cols := by
        simp only [Config.rows, Config.cols]; omega
      simp only [execLineData, hc, State.fbWrite, if_pos hr]
    · refine Or.inr (Or.inr (Or.inr ⟨h, by omega, ?_⟩))
      have hr : ¬ (s.row.toNat < Config.rows ∧ s.col.toNat < Config.cols) := by
        simp only [Config.rows, Config.cols]; omega
      simp only [execLineData, hc, State.fbWrite, if_neg hr]
  · exact Or.inr (Or.inl ⟨Or.inr h, by simp only [execLineData, hc]⟩)

/-- What a parameter byte does: the fourth completes, the others advance the offset. -/
theorem execParamByte_cases (b : Byte) (s : State) :
    (s.paramOff = 3#2 ∧
      execParamByte b s = .next (State.complete true { s with param := setLane s.param s.paramOff b })) ∨
    (s.paramOff ≠ 3#2 ∧
      execParamByte b s =
        .next { s with param := setLane s.param s.paramOff b, paramOff := s.paramOff + 1#2 }) := by
  have e : s.paramOff.toNat + 1 = Config.paramBytes ↔ s.paramOff = 3#2 := by
    rw [Config.paramBytes, ← BitVec.toNat_inj, BitVec.toNat_ofNat]
    omega
  unfold execParamByte
  by_cases h : s.paramOff = 3#2
  · exact Or.inl ⟨h, if_pos (e.2 h)⟩
  · exact Or.inr ⟨h, if_neg (mt e.1 h)⟩

/-! The step. -/

/-- A step answers with no event pending, on a faulted device, or by handling the event. -/
theorem step_cases (s : State) :
    (s.inputs = [] ∧ step s = .next s) ∨
    (∃ e rest, s.inputs = e :: rest ∧ s.fault = true ∧ step s = .next (State.receive s e rest)) ∨
    (∃ e rest, s.inputs = e :: rest ∧ s.fault = false ∧ step s = handle e (State.receive s e rest)) := by
  unfold step
  cases hi : s.inputs with
  | nil => exact Or.inl ⟨rfl, rfl⟩
  | cons e rest =>
    cases hf : s.fault
    · exact Or.inr (Or.inr ⟨e, rest, rfl, rfl, by simp⟩)
    · exact Or.inr (Or.inl ⟨e, rest, rfl, rfl, by simp⟩)

theorem step_of_event {s : State} {e : Event} {rest : List Event} (hi : s.inputs = e :: rest)
    (hf : s.fault = false) : step s = handle e (State.receive s e rest) := by
  unfold step
  rw [hi]
  simp [hf]

@[simp] theorem receive_mode (s : State) (e : Event) (rest : List Event) :
    (State.receive s e rest).mode = s.mode := rfl

/-- A `Byte` is dropped, runs the decoded instruction, or is one of the two bytes that decode to none. -/
theorem onByte_cases (b : Byte) (s : State) :
    (s.cs = false ∧ onByte b s = .next (State.emitDiag .dataWhileDeselected s)) ∨
    (∃ i, s.cs = true ∧ decode s.cfg s.mode b = .ok i ∧ onByte b s = exec i s) ∨
    (s.cs = true ∧ decode s.cfg s.mode b = .error .unknownCommandSet ∧
      onByte b s = .next (State.raiseFatal b s)) ∨
    (s.cs = true ∧ decode s.cfg s.mode b = .error .sceneWithoutDrawScene ∧
      onByte b s = .next (State.reinvoke b s)) := by
  unfold onByte
  cases hc : s.cs
  · exact Or.inl ⟨rfl, rfl⟩
  · cases hd : decode s.cfg s.mode b with
    | ok i => exact Or.inr (Or.inl ⟨i, rfl, rfl, rfl⟩)
    | error r =>
      cases r
      · exact Or.inr (Or.inr (Or.inl ⟨rfl, rfl, rfl⟩))
      · exact Or.inr (Or.inr (Or.inr ⟨rfl, rfl, rfl⟩))

end Sys2Proof.Machine
end

