-- ==== Sys2Proof/Laws/PerInstr.lean ====
section
/-!
SUPPORT. Facts about every instruction as encoded, one lemma per constructor.
-/
namespace Sys2Proof.Laws

/-- With the default parameters an instruction's byte agrees with its row of spec/opcode_table.json: under the
row's mask it is the row's match. -/
def TableMatch.Statement (i : Instr) : Prop :=
  encode Config.defaults i &&& i.tableRow.2 = i.tableRow.1

theorem TableMatch.null : TableMatch.Statement .null := by unfold TableMatch.Statement; decide
theorem TableMatch.setParameter : TableMatch.Statement .setParameter := by unfold TableMatch.Statement; decide
theorem TableMatch.displayOff : TableMatch.Statement .displayOff := by unfold TableMatch.Statement; decide
theorem TableMatch.displayOn : TableMatch.Statement .displayOn := by unfold TableMatch.Statement; decide
theorem TableMatch.drawScene : TableMatch.Statement .drawScene := by unfold TableMatch.Statement; decide
theorem TableMatch.unknown0 (b : Byte) : TableMatch.Statement (.unknown0 b) := by
  simp [TableMatch.Statement, Instr.tableRow]
theorem TableMatch.frameBegin : TableMatch.Statement .frameBegin := by unfold TableMatch.Statement; decide
theorem TableMatch.frameData : TableMatch.Statement .frameData := by unfold TableMatch.Statement; decide
theorem TableMatch.frameEnd : TableMatch.Statement .frameEnd := by unfold TableMatch.Statement; decide
theorem TableMatch.unknown1 (b : Byte) : TableMatch.Statement (.unknown1 b) := by
  simp [TableMatch.Statement, Instr.tableRow]
theorem TableMatch.sceneBlack : TableMatch.Statement .sceneBlack := by unfold TableMatch.Statement; decide
theorem TableMatch.sceneSplash : TableMatch.Statement .sceneSplash := by unfold TableMatch.Statement; decide
theorem TableMatch.sceneUpdate : TableMatch.Statement .sceneUpdate := by unfold TableMatch.Statement; decide
theorem TableMatch.sceneError : TableMatch.Statement .sceneError := by unfold TableMatch.Statement; decide
theorem TableMatch.sceneUnknown (s : Byte) : TableMatch.Statement (.sceneUnknown s) := by
  simp [TableMatch.Statement, Instr.tableRow]
theorem TableMatch.programmingByte (b : Byte) : TableMatch.Statement (.programmingByte b) := by
  simp [TableMatch.Statement, Instr.tableRow]
theorem TableMatch.paramByte (b : Byte) : TableMatch.Statement (.paramByte b) := by
  simp [TableMatch.Statement, Instr.tableRow]
theorem TableMatch.lineIndex (c : Byte) : TableMatch.Statement (.lineIndex c) := by
  simp [TableMatch.Statement, Instr.tableRow]
theorem TableMatch.lineData (b : Byte) : TableMatch.Statement (.lineData b) := by
  simp [TableMatch.Statement, Instr.tableRow]

end Sys2Proof.Laws
end

