-- ==== Sys2Proof/Laws/Run.lean ====
section
/-!
SUPPORT. How a run unfolds, step by step and in two parts.
-/
namespace Sys2Proof.Machine

theorem runSteps_zero (s : State) : runSteps 0 s = .next s := rfl

theorem runSteps_next {k : Nat} {s t : State} (h : step s = .next t) : runSteps (k + 1) s = runSteps k t := by
  rw [runSteps, h]

theorem runSteps_fault {k : Nat} {s : State} {r : Fault} (h : step s = .fault r) :
    runSteps (k + 1) s = .fault r := by
  rw [runSteps, h]

theorem runSteps_refused {k : Nat} {s : State} {r : Refusal} (h : step s = .refused r) :
    runSteps (k + 1) s = .refused r := by
  rw [runSteps, h]

/-- A run that answers a next state goes on from it. -/
theorem runSteps_add {j k : Nat} {s t : State} (h : runSteps j s = .next t) :
    runSteps (j + k) s = runSteps k t := by
  induction j generalizing s with
  | zero =>
    rw [runSteps_zero] at h
    cases h
    rw [Nat.zero_add]
  | succ j ih =>
    rw [show j + 1 + k = (j + k) + 1 by omega]
    cases hs : step s with
    | next u => rw [runSteps_next hs] at h ⊢; exact ih h
    | fault r => rw [runSteps_fault hs] at h; cases h
    | refused r => rw [runSteps_refused hs] at h; cases h

/-- An invariant of the step is an invariant of every run. -/
theorem runSteps_invariant {P : State → Prop} (hstep : ∀ s t, P s → step s = .next t → P t) :
    ∀ (k : Nat) (s t : State), P s → runSteps k s = .next t → P t := by
  intro k
  induction k with
  | zero =>
    intro s t hs h
    rw [runSteps_zero] at h
    cases h
    exact hs
  | succ k ih =>
    intro s t hs h
    cases hu : step s with
    | next u => rw [runSteps_next hu] at h; exact ih u t (hstep s u hs hu) h
    | fault r => rw [runSteps_fault hu] at h; cases h
    | refused r => rw [runSteps_refused hu] at h; cases h

end Sys2Proof.Machine
end

