-- ==== Sys2Proof/Tests/Slice0.lean ====
section
/-!
SUPPORT. Tests. The expected values are written out from spec/ (95_test_vectors.md where a vector is named),
not taken from the model. A `test_witness_…` theorem shows that the hypotheses of the statement of that name can
be met together.
-/
open Sys2Proof Sys2Proof.Machine
open Sys2Proof.Config (defaults)

/-! ## Helpers: small states -/

/-- State S0 of 95_test_vectors.md with the chip-select active (its header bytes are left out). -/
def testSet0 : State :=
  { State.reset with
    state := .acceptingCommand, cmdset := .set0, cs := true, sclk := .high, sclkCnt := 51#6
    intn := .low, cdone := true }

/-- State S1 of 95_test_vectors.md with the chip-select active (its header bytes are left out). -/
def testSet1 : State := { testSet0 with cmdset := .set1 }

/-- In AcceptingData at a row and a column. -/
def testData (row : Int) (col : Byte) : State :=
  { testSet1 with cmd := 0x01#8, state := .acceptingData, intn := .high, row := row, col := col }

/-- In AcceptingParameter at an offset. -/
def testParam (param : BitVec 32) (off : BitVec 2) : State :=
  { testSet0 with cmd := 0x01#8, state := .acceptingParameter, intn := .high, param := param, paramOff := off }

/-- In AcceptingSceneByte. -/
def testScene : State := { testSet0 with cmd := 0x04#8, state := .acceptingSceneByte, intn := .high }

/-- One event on a state. -/
def testEvent (e : Event) (s : State) : Host.Outcome State Fault Refusal := step { s with inputs := [e] }

/-- A property of the next state; false of a fault or a refusal. -/
def testNext (p : State → Bool) : Host.Outcome State Fault Refusal → Bool
  | .next t => p t
  | .fault _ => false
  | .refused _ => false

/-! ## Well-formedness: every check refuses an ill-formed term -/

theorem test_wf_unknown0_refuses_an_opcode : (Instr.unknown0 0x04#8).wf defaults = false := by decide
theorem test_wf_unknown1_refuses_an_opcode : (Instr.unknown1 0x02#8).wf defaults = false := by decide
theorem test_wf_sceneUnknown_refuses_a_scene : (Instr.sceneUnknown 0x03#8).wf defaults = false := by decide
theorem test_wf_params_refuses_equal_set0 :
    Params.wf { defaults with cmd0DrawScene := 0x02#8 } = false := by decide
theorem test_wf_params_refuses_equal_set1 :
    Params.wf { defaults with cmd1FrameEnd := 0x00#8 } = false := by decide
theorem test_wf_params_refuses_equal_scene :
    Params.wf { defaults with sceneSplash := 0x03#8 } = false := by decide
theorem test_wf_accepts :
    Params.wf defaults = true ∧ (Instr.unknown0 0x05#8).wf defaults = true ∧
      (Instr.unknown1 0x03#8).wf defaults = true ∧ (Instr.sceneUnknown 0x04#8).wf defaults = true := by decide

/-! ## Decoding: the bytes of 30_encoding.md R61 to R64, written out bit by bit -/

/-- A Set0 command byte. -/
def testDecode0 (b : Byte) : Except DecodeReject Instr := decode defaults ⟨.acceptingCommand, .set0, 0x00#8⟩ b
/-- A Set1 command byte. -/
def testDecode1 (b : Byte) : Except DecodeReject Instr := decode defaults ⟨.acceptingCommand, .set1, 0x00#8⟩ b
/-- A scene byte, after DrawScene. -/
def testDecodeScene (b : Byte) : Except DecodeReject Instr :=
  decode defaults ⟨.acceptingSceneByte, .set0, 0x04#8⟩ b

theorem test_decode_null : testDecode0 0b00000000#8 = .ok .null := rfl
theorem test_decode_setParameter : testDecode0 0b00000001#8 = .ok .setParameter := rfl
theorem test_decode_displayOff : testDecode0 0b00000010#8 = .ok .displayOff := rfl
theorem test_decode_displayOn : testDecode0 0b00000011#8 = .ok .displayOn := rfl
theorem test_decode_drawScene : testDecode0 0b00000100#8 = .ok .drawScene := rfl
theorem test_decode_unknown0 :
    testDecode0 0b00000101#8 = .ok (.unknown0 0x05#8) ∧ testDecode0 0b11111111#8 = .ok (.unknown0 0xFF#8) :=
  ⟨rfl, rfl⟩
theorem test_decode_frameBegin : testDecode1 0b00000000#8 = .ok .frameBegin := rfl
theorem test_decode_frameData : testDecode1 0b00000001#8 = .ok .frameData := rfl
theorem test_decode_frameEnd : testDecode1 0b00000010#8 = .ok .frameEnd := rfl
theorem test_decode_unknown1 :
    testDecode1 0b00000011#8 = .ok (.unknown1 0x03#8) ∧ testDecode1 0b00000100#8 = .ok (.unknown1 0x04#8) :=
  ⟨rfl, rfl⟩
theorem test_decode_sceneBlack : testDecodeScene 0b00000000#8 = .ok .sceneBlack := rfl
theorem test_decode_sceneSplash : testDecodeScene 0b00000001#8 = .ok .sceneSplash := rfl
theorem test_decode_sceneUpdate : testDecodeScene 0b00000010#8 = .ok .sceneUpdate := rfl
theorem test_decode_sceneError : testDecodeScene 0b00000011#8 = .ok .sceneError := rfl
theorem test_decode_sceneUnknown :
    testDecodeScene 0b00000100#8 = .ok (.sceneUnknown 0x04#8) ∧
      testDecodeScene 0b11111111#8 = .ok (.sceneUnknown 0xFF#8) := ⟨rfl, rfl⟩
theorem test_decode_programmingByte :
    decode defaults ⟨.programming, .unknown, 0x00#8⟩ 0b00000100#8 = .ok (.programmingByte 0x04#8) := rfl
theorem test_decode_paramByte :
    decode defaults ⟨.acceptingParameter, .set0, 0x01#8⟩ 0b00000100#8 = .ok (.paramByte 0x04#8) := rfl
theorem test_decode_lineIndex :
    decode defaults ⟨.acceptingLineNumber, .set1, 0x01#8⟩ 0b10010011#8 = .ok (.lineIndex 0x93#8) := rfl
theorem test_decode_lineData :
    decode defaults ⟨.acceptingData, .set1, 0x01#8⟩ 0b11000011#8 = .ok (.lineData 0xC3#8) := rfl

/-- A table word: eight bits are read as a Set0 command byte, more as a scene byte (log 11). -/
theorem test_table_word :
    decodeTableWord 8 0x04 = some .drawScene ∧ decodeTableWord 16 0x03 = some .sceneError := by decide

/-- `step` runs the placed word as the first instruction after reset. -/
theorem test_withFetchWord :
    testNext (fun t => t.state == .acceptingSceneByte && t.cmd == 0x04#8 && t.intn == .high)
      (step (State.reset.withFetchWord 8 0x04)) = true := by decide

/-! ## One step of each instruction (95_test_vectors.md, sections 2.1 to 2.6) -/

/-- A1. -/
theorem test_null :
    testNext (fun t => t.cmd == 0x00#8 && t.state == .acceptingCommand && t.out.writes == [.intn .high, .intn .low])
      (testEvent (.byte 0x00#8) testSet0) = true := by decide

/-- A6: the pending offset is still zero. -/
theorem test_setParameter :
    testNext (fun t => t.cmd == 0x01#8 && t.state == .acceptingParameter && t.paramOff == 0#2 && t.intn == .high)
      (testEvent (.byte 0x01#8) testSet0) = true := by decide

/-- A2. -/
theorem test_displayOff :
    testNext (fun t => t.cmd == 0x02#8 && t.state == .acceptingCommand && t.fb == [] && !t.redraw)
      (testEvent (.byte 0x02#8) testSet0) = true := by decide

/-- A3. -/
theorem test_displayOn :
    testNext (fun t => t.cmd == 0x03#8 && t.state == .acceptingCommand && t.intn == .low)
      (testEvent (.byte 0x03#8) testSet0) = true := by decide

/-- A7. -/
theorem test_drawScene :
    testNext (fun t => t.cmd == 0x04#8 && t.state == .acceptingSceneByte && t.out.writes == [.intn .high])
      (testEvent (.byte 0x04#8) testSet0) = true := by decide

/-- A5. -/
theorem test_unknown0 :
    testNext (fun t => t.cmd == 0xFF#8 && t.intn == .low && t.out.diags == [.unknownCommand 0xFF#8])
      (testEvent (.byte 0xFF#8) testSet0) = true := by decide

/-- F1: INTN stays high. -/
theorem test_frameBegin :
    testNext (fun t => t.cmd == 0x00#8 && t.state == .acceptingCommand && t.out.writes == [.intn .high])
      (testEvent (.byte 0x00#8) testSet1) = true := by decide

/-- F2. -/
theorem test_frameData :
    testNext (fun t => t.cmd == 0x01#8 && t.state == .acceptingLineNumber && t.intn == .high)
      (testEvent (.byte 0x01#8) testSet1) = true := by decide

/-- F3. -/
theorem test_frameEnd :
    testNext (fun t => t.cmd == 0x02#8 && t.redraw && t.out.writes == [.intn .high, .intn .low])
      (testEvent (.byte 0x02#8) testSet1) = true := by decide

/-- F5: 04 is no command of Set1 and waits for no scene byte. -/
theorem test_unknown1 :
    testNext (fun t => t.cmd == 0x04#8 && t.state == .acceptingCommand && t.out.diags == [.unknownCommand 0x04#8])
      (testEvent (.byte 0x04#8) testSet1) = true := by decide

/-- S-1. -/
theorem test_sceneBlack :
    testNext (fun t => t.scene == 0x00#8 && t.fbRead 0 0 == 0x00#8 && t.redraw && t.intn == .low)
      (testEvent (.byte 0x00#8) testScene) = true := by decide

/-- S-2: no pixel value is claimed. -/
theorem test_sceneSplash :
    testNext (fun t => t.scene == 0x01#8 && t.redraw && t.state == .acceptingCommand)
      (testEvent (.byte 0x01#8) testScene) = true := by decide

/-- S-3. -/
theorem test_sceneUpdate :
    testNext (fun t => t.scene == 0x02#8 && t.fbRead 0 7 == 0x30#8 && t.redraw)
      (testEvent (.byte 0x02#8) testScene) = true := by decide

/-- S-4. -/
theorem test_sceneError :
    testNext (fun t => t.scene == 0x03#8 && t.fbRead 0 1 == 0x0C#8 && t.redraw)
      (testEvent (.byte 0x03#8) testScene) = true := by decide

/-- S-6. -/
theorem test_sceneUnknown :
    testNext (fun t => t.scene == 0xFF#8 && t.fb == [] && !t.redraw && t.intn == .low &&
        t.out.diags == [.unknownScene 0xFF#8])
      (testEvent (.byte 0xFF#8) testScene) = true := by decide

/-- G3, its third byte. -/
theorem test_programmingByte :
    testNext (fun t => t.hdr == [(0, 0xFF#8), (1, 0x00#8), (2, 0x44#8)] && t.hdrLen == 3#9 && t.intn == .high)
      (testEvent (.byte 0x44#8)
        { State.reset with cs := true, hdr := [(0, 0xFF#8), (1, 0x00#8)], hdrLen := 2#9 }) = true := by decide

/-- G4: the 257th byte is dropped. -/
theorem test_programmingByte_full :
    testNext (fun t => t.hdr == [(255, 0x11#8)] && t.hdrLen == 256#9 && t.out.diags == [])
      (testEvent (.byte 0x44#8) { State.reset with cs := true, hdr := [(255, 0x11#8)], hdrLen := 256#9 }) = true := by
  decide

/-- B2, its second operand byte. -/
theorem test_paramByte_lane :
    testNext (fun t => t.param == 0xAABB5678#32 && t.paramOff == 2#2 && t.intn == .high)
      (testEvent (.byte 0x56#8) (testParam 0xAABBCC78#32 1#2)) = true := by decide

/-- B2, its fourth operand byte. -/
theorem test_paramByte_last :
    testNext (fun t => t.param == 0x12345678#32 && t.paramOff == 0#2 && t.state == .acceptingCommand && t.intn == .low)
      (testEvent (.byte 0x12#8) (testParam 0xAA345678#32 3#2)) = true := by decide

/-- L2: 147 is the last column. -/
theorem test_lineIndex_last :
    testNext (fun t => t.col == 0x93#8 && t.row == 187 && t.state == .acceptingData && t.out.diags == [])
      (testEvent (.byte 0x93#8) { testSet1 with cmd := 0x01#8, state := .acceptingLineNumber }) = true := by decide

/-- L3: 148 is out of range. -/
theorem test_lineIndex_out_of_range :
    testNext (fun t => t.col == 0x00#8 && t.row == 187 && t.intn == .high && t.out.diags == [.columnOutOfRange 0x94#8])
      (testEvent (.byte 0x94#8) { testSet1 with cmd := 0x01#8, state := .acceptingLineNumber }) = true := by decide

/-- L10 and the position table at k = 16: stored verbatim in row 171, at address 171 * 148 + 5. -/
theorem test_lineData_visible :
    testNext (fun t => t.fb == [(25313, 0xC3#8)] && t.row == 170) (testEvent (.byte 0xC3#8) (testData 171 0x05#8)) =
      true := by decide

/-- The position table at k = 15, 188 and 204. -/
theorem test_lineData_padding :
    testNext (fun t => t.fb == [] && t.row == 171) (testEvent (.byte 0x11#8) (testData 172 0x05#8)) = true ∧
    testNext (fun t => t.fb == [] && t.row == -2) (testEvent (.byte 0x11#8) (testData (-1) 0x05#8)) = true ∧
    testNext (fun t => t.fb == [] && t.row == -17 && t.state == .acceptingLineNumber && t.intn == .low)
      (testEvent (.byte 0x11#8) (testData (-17) 0x05#8)) = true := by decide

/-! ## Gates, signals, render -/

/-- G1: a deselected byte is dropped, and returns the placeholder. -/
theorem test_deselected :
    testNext (fun t => t.state == .acceptingCommand && t.cmd == 0x00#8 && t.intn == .low &&
        t.out == { miso := some 0x00#8, diags := [.dataWhileDeselected] })
      (testEvent (.byte 0x04#8) { testSet0 with cs := false }) = true := by decide

/-- G6. -/
theorem test_faulted :
    testNext (fun t => t.cmd == 0x00#8 && t.fault && t.out == { miso := some 0x00#8 })
      (testEvent (.byte 0x04#8) { testSet0 with fault := true }) = true := by decide

/-- C-1. -/
theorem test_chip_select_abort :
    testNext (fun t => t.state == .acceptingCommand && t.paramOff == 0#2 && t.param == 0x0000BEEF#32 && t.intn == .low)
      (testEvent (.chipSelect false) (testParam 0x0000BEEF#32 2#2)) = true := by decide

/-- C-7: no completion in Programming. -/
theorem test_chip_select_programming :
    testNext (fun t => t.state == .programming && t.intn == .high && !t.cs && t.out.writes == [])
      (testEvent (.chipSelect false) { State.reset with cs := true }) = true := by decide

/-- E4: the 51st edge, with an empty header. -/
theorem test_clock_leaves_programming :
    testNext (fun t => t.state == .acceptingCommand && t.cmdset == .set1 && t.sclkCnt == 51#6 &&
        t.out == { writes := [.cdone true, .intn .low], diags := [.noDateString] })
      (testEvent (.clock .high) { State.reset with sclkCnt := 50#6 }) = true := by decide

/-- E1, E2: the fiftieth edge does not; a repeated level is no edge. -/
theorem test_clock_counts :
    testNext (fun t => t.sclkCnt == 50#6 && t.state == .programming && !t.cdone)
      (testEvent (.clock .high) { State.reset with sclkCnt := 49#6 }) = true ∧
    testNext (fun t => t.sclkCnt == 49#6)
      (testEvent (.clock .high) { State.reset with sclkCnt := 49#6, sclk := .high }) = true := by decide

/-- X3. -/
theorem test_reset_assert :
    testNext (fun t => !t.cdone && t.rst && t.state == .acceptingCommand && t.cmdset == .set0 && t.sclkCnt == 51#6)
      (testEvent (.reset true) testSet0) = true := by decide

/-- X5. -/
theorem test_reset_release :
    testNext (fun t => t.state == .programming && t.cmdset == .unknown && t.sclkCnt == 0#6 && t.intn == .high &&
        t.cs && t.sclk == .high)
      (testEvent (.reset false) { testSet0 with rst := true, cdone := false }) = true := by decide

/-- 45_pixel_mapper_render.md R118, the vectors of section 2.11. -/
theorem test_color_map :
    colorMap 0xC3#8 = ⟨255#8, 0#8, 0#8⟩ ∧ colorMap 0x30#8 = ⟨0#8, 255#8, 0#8⟩ ∧
      colorMap 0xE4#8 = ⟨255#8, 170#8, 85#8⟩ ∧ colorMap 0x1B#8 = ⟨0#8, 85#8, 170#8⟩ := by decide

/-- V1: without the flag there is no pass. -/
theorem test_render_without_redraw :
    testNext (fun t => t.out.pass == none) (testEvent .render testSet0) = true := by decide

/-! ## The classifier (section 2.7) -/

/-- K1, K2, K7: the two known dates; a last string without its zero. -/
theorem test_classify_known :
    classify defaults.dateTable ([0xFF#8, 0x00#8] ++ Config.dateSet0 ++ [0x00#8]) = (.set0, none) ∧
    classify defaults.dateTable ([0xFF#8, 0x00#8] ++ Config.dateSet1 ++ [0x00#8]) = (.set1, none) ∧
    classify defaults.dateTable ([0xFF#8, 0x00#8] ++ Config.dateSet0) = (.set0, none) := by decide

/-- K4, K5, K12: no date string. -/
theorem test_classify_no_date :
    classify defaults.dateTable [0xFF#8, 0x00#8] = (.set1, some .noDateString) ∧
    classify defaults.dateTable [0xFF#8, 0x00#8, 0x50#8, 0x61#8, 0x72#8, 0x74#8, 0x3A#8, 0x20#8, 0x78#8, 0x00#8] =
      (.set1, some .noDateString) ∧
    classify defaults.dateTable (Config.dateSet0 ++ [0x00#8]) = (.set1, some .noDateString) := by decide

/-- K9, K14, K15: a date cut short; the first date decides; empty strings are skipped. -/
theorem test_classify_order :
    classify defaults.dateTable ([0xFF#8, 0x00#8] ++ Config.dateSet0.take 22 ++ [0x00#8]) =
      (.set1, some (.dateNotRecognised (Config.dateSet0.take 22))) ∧
    classify defaults.dateTable
      ([0xFF#8, 0x00#8] ++ Config.dateSet1 ++ [0x00#8] ++ Config.dateSet0 ++ [0x00#8]) = (.set1, none) ∧
    classify defaults.dateTable ([0xFF#8, 0x00#8, 0x00#8, 0x00#8] ++ Config.dateSet0 ++ [0x00#8]) =
      (.set0, none) := by decide

/-! ## Witnesses: the hypotheses of each statement, met together -/

theorem test_witness_DecodeOfEncode :
    defaults.wf = true ∧ (Instr.unknown1 0x03#8).wf defaults = true ∧
      (Instr.unknown1 0x03#8).fits defaults ⟨.acceptingCommand, .set1, 0x00#8⟩ = true ∧
      Instr.sceneError.wf defaults = true ∧
      Instr.sceneError.fits defaults ⟨.acceptingSceneByte, .set0, 0x04#8⟩ = true := by decide

theorem test_witness_EncodeOfDecode :
    decode defaults ⟨.acceptingCommand, .set0, 0x00#8⟩ 0x05#8 = .ok (.unknown0 0x05#8) := rfl

theorem test_witness_DecoderRejectsOnly :
    decode defaults ⟨.acceptingCommand, .unknown, 0x00#8⟩ 0x04#8 = .error .unknownCommandSet ∧
      decode defaults ⟨.acceptingSceneByte, .set0, 0x03#8⟩ 0x04#8 = .error .sceneWithoutDrawScene := ⟨rfl, rfl⟩

theorem test_witness_StepRunsDecodedInstruction :
    let s := { testSet0 with inputs := [.byte 0x04#8, .render] }
    s.inputs = .byte 0x04#8 :: [.render] ∧ s.fault = false ∧ s.cs = true ∧
      decode s.cfg s.mode 0x04#8 = .ok .drawScene := ⟨rfl, rfl, rfl, rfl⟩

theorem test_witness_DeselectedByteDropped :
    let s := { testSet0 with inputs := [.byte 0x04#8], cs := false }
    s.inputs = .byte 0x04#8 :: [] ∧ s.fault = false ∧ s.cs = false := ⟨rfl, rfl, rfl⟩

theorem test_witness_FaultedDeviceIgnoresEvents :
    let s := { testSet0 with inputs := [.byte 0x04#8], fault := true }
    let s' := { testSet0 with inputs := [.reset true], fault := true }
    (s.inputs = .byte 0x04#8 :: [] ∧ s.fault = true) ∧ (s'.inputs = .reset true :: [] ∧ s'.fault = true) :=
  ⟨⟨rfl, rfl⟩, rfl, rfl⟩

theorem test_witness_UnknownCommandSetIsFatal :
    let s := { testSet0 with inputs := [.byte 0x04#8], cmdset := .unknown }
    s.inputs = .byte 0x04#8 :: [] ∧ s.fault = false ∧ s.cs = true ∧ s.state = .acceptingCommand ∧
      s.cmdset = .unknown := ⟨rfl, rfl, rfl, rfl, rfl⟩

theorem test_witness_ImmediateCommandEdges :
    Instr.unknown0 0x05#8 ∈ [Instr.null, .displayOff, .displayOn, .unknown0 0x05#8, .unknown1 0x05#8, .frameEnd] ∧
      testSet0.out.writes = [] ∧ testNext (fun _ => true) (exec (.unknown0 0x05#8) testSet0) = true := by decide

theorem test_witness_SolidScenesFill :
    (Instr.sceneError, 0x03#8, 0x0C#8) ∈
      [(Instr.sceneBlack, 0x00#8, 0x00#8), (.sceneUpdate, 0x02#8, 0x30#8), (.sceneError, 0x03#8, 0x0C#8)] := by
  decide

theorem test_witness_SplashDependsOnContents :
    testNext (fun _ => true) (exec .sceneSplash testScene) = true ∧
      testNext (fun _ => true) (exec .sceneSplash { testScene with scene := 0x02#8 }) = true ∧
      ∀ r c, r < 172 → c < 148 → testScene.fbRead r c = State.fbRead { testScene with scene := 0x02#8 } r c :=
  ⟨rfl, rfl, fun _ _ _ _ => rfl⟩

theorem test_witness_ProgrammingByteCaptured :
    ({ State.reset with hdrLen := 255#9 } : State).hdrLen.toNat < 256 ∧
      256 ≤ ({ State.reset with hdrLen := 256#9 } : State).hdrLen.toNat := by decide

theorem test_witness_ParameterByteFillsLane :
    (testParam 0x12345678#32 3#2).paramOff = 3#2 ∧ ¬ (testParam 0x12345678#32 2#2).paramOff = 3#2 ∧
      (0#2 : BitVec 2) ≠ (testParam 0x12345678#32 2#2).paramOff := by decide

theorem test_witness_FourBytesAssembleParameter :
    let s := { testParam 0xAABBCCDD#32 0#2 with
      inputs := [.byte 0x78#8, .byte 0x56#8, .byte 0x34#8, .byte 0x12#8, .render] }
    s.inputs = [.byte 0x78#8, .byte 0x56#8, .byte 0x34#8, .byte 0x12#8] ++ [Event.render] ∧ s.fault = false ∧
      s.cs = true ∧ s.state = .acceptingParameter ∧ s.paramOff = 0#2 := ⟨rfl, rfl, rfl, rfl, rfl⟩

theorem test_witness_LineIndexStartsLine :
    (0x93#8 : Byte).toNat < 148 ∧ ¬ (0x94#8 : Byte).toNat < 148 := by decide

theorem test_witness_VisibleByteWritten :
    (0 ≤ (testData 0 0x93#8).row ∧ (testData 0 0x93#8).row < 172 ∧ (testData 0 0x93#8).col.toNat < 148) ∧
      (0 ≤ (testData 171 0x00#8).row ∧ (testData 171 0x00#8).row < 172) := by decide

theorem test_witness_PaddingAndTriggerBytes :
    172 ≤ (testData 172 0x05#8).row ∧ ((testData (-1) 0x05#8).row < 0 ∧ (testData (-1) 0x05#8).row ≠ -17) ∧
      ((testData (-16) 0x05#8).row < 0 ∧ (testData (-16) 0x05#8).row ≠ -17) ∧
      (testData (-17) 0x05#8).row = -17 := by decide

theorem test_witness_VisibleByteOutOfRangeStops :
    0 ≤ (testData 171 0x94#8).row ∧ (testData 171 0x94#8).row < 172 ∧ 148 ≤ (testData 171 0x94#8).col.toNat := by
  decide

theorem test_witness_WholeLineWritesColumn :
    let ds : List Byte := List.replicate 205 0xAA#8
    let s := fun c : Byte => { testSet1 with
      cmd := 0x01#8, state := .acceptingLineNumber, inputs := (c :: ds).map Event.byte ++ [Event.render] }
    (s 0x93#8).inputs = (0x93#8 :: ds).map Event.byte ++ [Event.render] ∧
      (s 0x94#8).inputs = (0x94#8 :: ds).map Event.byte ++ [Event.render] ∧ ds.length = 205 ∧
      (s 0x93#8).fault = false ∧ (s 0x93#8).cs = true ∧ (s 0x93#8).state = .acceptingLineNumber ∧
      (s 0x94#8).fault = false ∧ (s 0x94#8).cs = true ∧ (s 0x94#8).state = .acceptingLineNumber :=
  ⟨rfl, rfl, List.length_replicate, rfl, rfl, rfl, rfl, rfl, rfl⟩

theorem test_witness_ShortLineKeepsItsBytes :
    let ds : List Byte := List.replicate 204 0xAA#8
    let s := { testSet1 with
      cmd := 0x01#8, state := .acceptingLineNumber
      inputs := (0xFF#8 :: ds).map Event.byte ++ [Event.chipSelect false] }
    s.inputs = (0xFF#8 :: ds).map Event.byte ++ Event.chipSelect false :: [] ∧ ds.length ≤ 204 ∧
      s.fault = false ∧ s.cs = true ∧ s.state = .acceptingLineNumber :=
  ⟨rfl, Nat.le_of_eq List.length_replicate, rfl, rfl, rfl⟩

theorem test_witness_ResetKeepsShortLine :
    let ds : List Byte := List.replicate 17 0xAA#8
    let s := { testSet1 with
      cmd := 0x01#8, state := .acceptingLineNumber, rst := true
      inputs := (0x05#8 :: ds).map Event.byte ++ [Event.reset false] }
    s.inputs = (0x05#8 :: ds).map Event.byte ++ Event.reset false :: [] ∧ ds.length ≤ 204 ∧
      s.fault = false ∧ s.cs = true ∧ s.rst = true ∧ s.state = .acceptingLineNumber :=
  ⟨rfl, by decide, rfl, rfl, rfl, rfl⟩

theorem test_witness_BytesStayInStream :
    let s := { testData (-17) 0x93#8 with inputs := [0x02#8, 0xFF#8].map Event.byte ++ [Event.render] }
    s.inputs = [0x02#8, 0xFF#8].map Event.byte ++ [Event.render] ∧ s.fault = false ∧ s.cs = true ∧
      s.col.toNat < 148 ∧ (s.state = .acceptingLineNumber ∨ s.state = .acceptingData) :=
  ⟨rfl, rfl, rfl, by decide, Or.inr rfl⟩

theorem test_witness_ChipSelectAborts :
    let s := { testData 167 0x00#8 with inputs := [.chipSelect false] }
    s.inputs = .chipSelect false :: [] ∧ s.fault = false ∧ s.cs = true ∧ s.state ≠ .programming := by decide

theorem test_witness_ChipSelectOtherwiseLatches :
    let s := { State.reset with cs := true, inputs := [.chipSelect false] }
    let s' := { testSet0 with cs := false, inputs := [.chipSelect true] }
    let s'' := { testSet0 with cs := false, inputs := [.chipSelect false] }
    (s.fault = false ∧ s.state = .programming) ∧ (s'.inputs = .chipSelect true :: [] ∧ s'.fault = false) ∧
      (s''.inputs = .chipSelect false :: [] ∧ false = s''.cs) := by decide

theorem test_witness_ClockOtherwiseLatches :
    let s := { testSet0 with cs := false, sclk := .low, inputs := [.clock .high] }
    s.inputs = .clock .high :: [] ∧ s.fault = false ∧
      ¬ (s.sclk = .low ∧ Level.high = .high ∧ s.cs = false ∧ s.sclkCnt.toNat ≤ 50) := by decide

theorem test_witness_ClockEdgeCounts :
    let s := { State.reset with sclkCnt := 49#6, inputs := [.clock .high] }
    s.inputs = .clock .high :: [] ∧ s.fault = false ∧ s.sclk = .low ∧ s.cs = false ∧ s.sclkCnt.toNat < 50 := by
  decide

theorem test_witness_ClockEdgeLeavesProgramming :
    let s := { State.reset with sclkCnt := 50#6, hdrLen := 256#9, inputs := [.clock .high] }
    s.inputs = .clock .high :: [] ∧ s.fault = false ∧ s.sclk = .low ∧ s.cs = false ∧ s.sclkCnt.toNat = 50 ∧
      s.state = .programming ∧ s.hdrLen.toNat ≤ 256 := by decide

theorem test_witness_FiftyEdgesAreNotEnough :
    let s := fun n => { State.reset with
      inputs := (List.replicate n [Event.clock .high, Event.clock .low]).flatten ++ [Event.render] }
    ((s 50).inputs = (List.replicate 50 [Event.clock .high, Event.clock .low]).flatten ++ [Event.render] ∧
      (s 51).inputs = (List.replicate 51 [Event.clock .high, Event.clock .low]).flatten ++ [Event.render]) ∧
      (s 50).fault = false ∧ (s 50).sclk = .low ∧ (s 50).cs = false ∧ (s 50).sclkCnt = 0#6 ∧
      (s 50).state = .programming ∧ (s 50).hdrLen.toNat ≤ 256 :=
  ⟨⟨rfl, rfl⟩, rfl, rfl, rfl, rfl, rfl, Nat.zero_le _⟩

theorem test_witness_ResetAssertEdge :
    let s := { testSet0 with inputs := [.reset true] }
    s.inputs = .reset true :: [] ∧ s.fault = false ∧ s.rst = false := by decide

theorem test_witness_ResetReleaseEdge :
    let s := { testScene with rst := true, cdone := false, inputs := [.reset false, .byte 0x02#8] }
    s.inputs = .reset false :: [.byte 0x02#8] ∧ s.fault = false ∧ s.rst = true := by decide

theorem test_witness_ResetWithoutEdge :
    let s := { State.reset with inputs := [.reset false] }
    s.inputs = .reset false :: [] ∧ s.fault = false ∧ s.rst = false := by decide

theorem test_witness_ResetPulse :
    let s := { testScene with inputs := [.reset true, .reset false, .byte 0x02#8] }
    s.inputs = .reset true :: .reset false :: [.byte 0x02#8] ∧ s.fault = false ∧ s.rst = false := by decide

theorem test_witness_RenderConvertsEveryCell :
    let s := { testSet0 with redraw := true, inputs := [.render] }
    s.inputs = .render :: [] ∧ s.fault = false ∧ s.redraw = true ∧
      ({ testSet0 with inputs := [.render] } : State).redraw = false := by decide

theorem test_witness_SecondRenderMakesNoPass :
    let s := { testSet0 with redraw := true, inputs := [.render, .render] }
    s.inputs = .render :: .render :: [] ∧ s.fault = false := by decide

/-- The strings "Lattice" and a date, with more bytes after the date and a zero after those. -/
theorem test_witness_FirstDateStringDecides :
    (∀ x ∈ [[0x4C#8, 0x61#8, 0x74#8, 0x74#8, 0x69#8, 0x63#8, 0x65#8]], 0x00#8 ∉ x ∧ ¬ Config.dateMark <+: x) ∧
      0x00#8 ∉ Config.dateSet0 ++ [0x3A#8] ∧ Config.dateMark <+: Config.dateSet0 ++ [0x3A#8] ∧
      (∃ more, [0x00#8, 0x41#8] = 0x00#8 :: more) := by
  refine ⟨by decide, by decide, by decide, ⟨[0x41#8], rfl⟩⟩

theorem test_witness_KnownDatesSelectSets :
    (∀ x ∈ [[0x4C#8, 0x61#8]], 0x00#8 ∉ x ∧ ¬ Config.dateMark <+: x) ∧ 0x00#8 ∉ [0x3A#8, 0x34#8] ∧
      (∃ z, [0x00#8, 0x41#8] = 0x00#8 :: z) := by
  refine ⟨by decide, by decide, ⟨[0x41#8], rfl⟩⟩

theorem test_witness_NoDateStringSelectsSet1 :
    (∀ x ∈ [[0x4C#8, 0x61#8]], 0x00#8 ∉ x ∧ ¬ Config.dateMark <+: x) ∧ 0x00#8 ∉ [0x44#8, 0x61#8, 0x74#8, 0x65#8] ∧
      ¬ Config.dateMark <+: [0x44#8, 0x61#8, 0x74#8, 0x65#8] ∧ [0xFF#8, 0x00#8].length ≤ 2 := by decide

/-! The invariant holds in states at the ends of its ranges, and a step leads on from each. -/

/-- The last byte of a line in the last column, with a captured header. -/
def testInvData : State :=
  { testData (-17) 0x93#8 with hdr := [(0, 0xFF#8), (1, 0x00#8)], hdrLen := 2#9, inputs := [.byte 0x11#8] }

/-- The last byte of a parameter. -/
def testInvParam : State := { testParam 0x00345678#32 3#2 with inputs := [.byte 0x12#8] }

/-- A scene byte to come. -/
def testInvScene : State := { testScene with inputs := [.byte 0x02#8] }

theorem test_inv_data : Inv testInvData := by constructor <;> decide
theorem test_inv_param : Inv testInvParam := by constructor <;> decide
theorem test_inv_scene : Inv testInvScene := by constructor <;> decide

theorem test_witness_StepKeepsInvariant :
    Inv testInvData ∧ testNext (fun _ => true) (step testInvData) = true ∧
      Inv testInvParam ∧ testNext (fun _ => true) (step testInvParam) = true ∧
      Inv testInvScene ∧ testNext (fun _ => true) (step testInvScene) = true :=
  ⟨test_inv_data, by decide, test_inv_param, by decide, test_inv_scene, by decide⟩

theorem test_witness_NoFaultFromPowerOn : Inv testInvData := test_inv_data

theorem test_witness_FramebufferWriters :
    testNext (fun t => t.fb != (testData 171 0x05#8).fb) (testEvent (.byte 0xC3#8) (testData 171 0x05#8)) = true := by
  decide

theorem test_witness_RedrawWriters :
    (testScene.redraw = false ∧ testNext (fun t => t.redraw) (testEvent (.byte 0x02#8) testScene) = true) ∧
      (testSet1.redraw = false ∧ testNext (fun t => t.redraw) (testEvent (.byte 0x02#8) testSet1) = true) ∧
      testNext (fun t => !t.redraw) (testEvent .render { testSet0 with redraw := true }) = true := by decide

theorem test_witness_CommandSetWriters :
    testNext (fun t => t.cmdset != .unknown) (testEvent (.clock .high) { State.reset with sclkCnt := 50#6 }) = true ∧
      testNext (fun t => t.cmdset != .set0) (testEvent (.reset false) { testSet0 with rst := true }) = true := by
  decide

theorem test_witness_TransitionsAreListed :
    Inv testInvParam ∧ testInvParam.inputs = .byte 0x12#8 :: [] ∧
      testNext (fun t => t.state == .acceptingCommand) (step testInvParam) = true :=
  ⟨test_inv_param, rfl, by decide⟩

theorem test_witness_OutputsFollowWrites :
    ({ testSet0 with inputs := [.byte 0x00#8] } : State).inputs = .byte 0x00#8 :: [] ∧
      testNext (fun t => t.intn == .low) (testEvent (.byte 0x00#8) testSet0) = true := by decide

theorem test_witness_StaleHeaderUnobservable :
    differInStaleHeader { State.reset with hdr := [(0, 0xFF#8), (1, 0x22#8)], hdrLen := 1#9 }
      { State.reset with hdr := [(0, 0xFF#8), (1, 0x44#8)], hdrLen := 1#9 } := by
  unfold differInStaleHeader; decide

theorem test_witness_ParameterUnobservable :
    differInParam (testParam 0x11111111#32 1#2) (testParam 0x22222222#32 1#2) := by
  unfold differInParam; decide

/-- Two states that differ in a cell and in the colour of a one-pixel pass; and a step that puts out a pass. -/
theorem test_witness_FramebufferUnread :
    differInFramebuffer { testSet0 with out := { pass := some [⟨0#8, 0#8, 0#8⟩] } }
        { testSet0 with fb := [(7, 0xC0#8)], out := { pass := some [⟨255#8, 0#8, 0#8⟩] } } ∧
      testNext (fun t => t.out.pass.isSome) (testEvent .render { testSet0 with redraw := true }) = true := by
  unfold differInFramebuffer; decide

/-! ## The run that 10_state.md R32's second clause does not allow (log 22) -/

/-- Reset held, the fifty-first edge counted under it, then released: DONE stays asserted over a counter of 0. -/
theorem test_done_over_zero_counter :
    testNext (fun t => t.cdone && t.sclkCnt == 0#6 && t.state == .programming)
      (runSteps 3 { State.reset with
        sclkCnt := 50#6, inputs := [.reset true, .clock .high, .reset false] }) = true := by decide
end

