-- ==== Sys2Proof/Proofs/Splash.lean ====
section
/-!
PROOFS. The Splash scene (00_scope.md R8, 41_set0_commands.md R92): what it leaves in a cell is a function of the
bytes the framebuffer reads as, whatever list of written cells stands for them (log 4, log 5).
-/
namespace Sys2Proof.Machine

/-! The framebuffer as a whole, from its cells. -/

/-- Two memories that read the same over a whole space have the same contents there. -/
theorem contents_congr {sp : Space} {m m' : Memory}
    (h : ∀ a < sp.size, Memory.read sp m a = Memory.read sp m' a) :
    Memory.contents sp m = Memory.contents sp m' := by
  refine List.map_congr_left fun a ha => h a ?_
  simpa using ha

/-- Every address of the framebuffer is the address of a cell (20_memory.md R40). -/
theorem exists_fbAddr_eq {a : Nat} (h : a < Space.fb.size) :
    ∃ r c, r < Config.rows ∧ c < Config.cols ∧ fbAddr r c = a := by
  refine ⟨a / Config.cols, a % Config.cols, ?_, Nat.mod_lt _ (by decide), Nat.div_add_mod' a _⟩
  exact Nat.div_lt_of_lt_mul (by simpa [Space.size, Config.fbSize, Config.rows, Config.cols] using h)

/-- States that read the same in every cell read the same at every address of the framebuffer. -/
theorem read_fb_eq_of_fbRead_eq {s s' : State}
    (h : ∀ r c, r < Config.rows → c < Config.cols → s.fbRead r c = s'.fbRead r c) :
    ∀ a < Space.fb.size, Memory.read .fb s.fb a = Memory.read .fb s'.fb a := by
  intro a ha
  obtain ⟨r, c, hr, hc, rfl⟩ := exists_fbAddr_eq ha
  exact h r c hr hc

/-! What Splash leaves in a cell. -/

/-- A cell after the splash: the value `SPLASH_RENDER` gives it, else what it read as before. -/
theorem read_splashRender (fb : Memory) {a : Nat} (h : a < Space.fb.size) :
    Memory.read .fb (splashRender fb) a =
      ((Config.splashPixel (Memory.contents .fb fb) a).map (· ++ 0#2)).getD (Memory.read .fb fb a) := by
  obtain ⟨v, hv, hl⟩ | ⟨hv, hl⟩ := lookup_splashRender fb a h
  · rw [hv, read_of_lookup _ _ _ _ hl]
    rfl
  · rw [hv, Memory.read, hl]
    rfl

/-- Framebuffers that read the same at every address do so after the splash. -/
theorem read_splashRender_congr {fb fb' : Memory}
    (h : ∀ a < Space.fb.size, Memory.read .fb fb a = Memory.read .fb fb' a) :
    ∀ a < Space.fb.size,
      Memory.read .fb (splashRender fb) a = Memory.read .fb (splashRender fb') a := by
  intro a ha
  rw [read_splashRender fb ha, read_splashRender fb' ha, contents_congr h, h a ha]

/-- The whole next state of `SCENE_SPLASH`. -/
theorem exec_sceneSplash (s : State) :
    exec .sceneSplash s = .next { s with
      scene := s.cfg.sceneSplash, fb := splashRender s.fb, redraw := true, intn := .low
      state := .acceptingCommand, paramOff := 0#2
      out := { s.out with writes := s.out.writes ++ [.intn .low] } } :=
  congrArg Host.Outcome.next (drawn_eq _ _ splashRender (fun _ => rfl) s)

/-- Settles O16: the splash reads nothing but the framebuffer's contents, and the cells determine those. -/
theorem splashDependsOnContents : Obligations.SplashDependsOnContents := by
  intro s s' t t' ht ht' hcells r c hr hc
  rw [exec_sceneSplash] at ht ht'
  cases ht
  cases ht'
  exact read_splashRender_congr (read_fb_eq_of_fbRead_eq hcells) _ (fbAddr_lt hr hc)

end Sys2Proof.Machine
end

