-- ==== Sys2Proof/Proofs/StateFacts.lean ====
section
/-!
PROOFS. Facts about the model's operations that the statements of 10_state.md share: where an instruction's byte
arrives, the step by its gates, and what each event leaves unchanged.
-/
namespace Sys2Proof.Machine

/-! Which protocol state an instruction's byte arrives in. -/

theorem decodeSet0_arrivalState (p : Params) (b : Byte) :
    (decodeSet0 p b).arrivalState = .acceptingCommand := by
  obtain ⟨-, hd⟩ | ⟨-, hd⟩ | ⟨-, hd⟩ | ⟨-, hd⟩ | ⟨-, hd⟩ | ⟨-, hd⟩ := decodeSet0_cases p b <;> rw [hd] <;> rfl

theorem decodeSet1_arrivalState (p : Params) (b : Byte) :
    (decodeSet1 p b).arrivalState = .acceptingCommand := by
  obtain ⟨-, hd⟩ | ⟨-, hd⟩ | ⟨-, hd⟩ | ⟨-, hd⟩ := decodeSet1_cases p b <;> rw [hd] <;> rfl

theorem decodeScene_arrivalState (p : Params) (b : Byte) :
    (decodeScene p b).arrivalState = .acceptingSceneByte := by
  obtain ⟨-, hd⟩ | ⟨-, hd⟩ | ⟨-, hd⟩ | ⟨-, hd⟩ | ⟨-, hd⟩ := decodeScene_cases p b <;> rw [hd] <;> rfl

theorem arrivalState_of_decode {p : Params} {m : DecodeMode} {b : Byte} {i : Instr} (h : decode p m b = .ok i) :
    i.arrivalState = m.state := by
  unfold decode at h
  cases hst : m.state <;> simp only [hst] at h
  case acceptingCommand =>
    cases hset : m.cmdset <;> simp only [hset] at h <;> cases h
    · exact decodeSet0_arrivalState p b
    · exact decodeSet1_arrivalState p b
  case acceptingSceneByte =>
    split at h <;> cases h
    exact decodeScene_arrivalState p b
  all_goals
    cases h
    rfl

/-! The gates of a byte and of a step, and two operations written out. -/

theorem onByte_of_decode {s : State} {b : Byte} {i : Instr} (hcs : s.cs = true)
    (hd : decode s.cfg s.mode b = .ok i) : onByte b s = exec i s := by
  simp [onByte, hcs, hd]

theorem onByte_of_reject {s : State} {b : Byte} {r : DecodeReject} (hcs : s.cs = true)
    (hd : decode s.cfg s.mode b = .error r) : onByte b s = .next (State.rejected r b s) := by
  simp [onByte, hcs, hd]

theorem step_of_no_event {s : State} (hi : s.inputs = []) : step s = .next s := by
  unfold step
  rw [hi]

theorem step_of_fault {s : State} {e : Event} {rest : List Event} (hi : s.inputs = e :: rest)
    (hf : s.fault = true) : step s = .next (State.receive s e rest) := by
  unfold step
  rw [hi]
  simp [hf]

/-- The counter after one more edge, while it has not reached its limit. -/
theorem counter_succ_toNat {n : BitVec 6} (h : n.toNat ≤ 50) : (n + 1#6).toNat = n.toNat + 1 := by
  simp only [BitVec.toNat_add, BitVec.toNat_ofNat]
  omega

/-- `HdrAppend` writes the header capture and its length only. -/
theorem hdrAppend_frame (b : Byte) (s : State) :
    State.hdrAppend b s =
      { s with hdr := (State.hdrAppend b s).hdr, hdrLen := (State.hdrAppend b s).hdrLen } := by
  obtain ⟨-, heq⟩ | ⟨-, heq⟩ := hdrAppend_cases b s <;> rw [heq]

/-- `LINE_INDEX`: the column replaced where it is out of range, and the diagnostic then. -/
theorem exec_lineIndex (c : Byte) (s : State) :
    exec (.lineIndex c) s = .next { s with
      col := columnOf c, row := Config.rowStart, state := .acceptingData, intn := .high
      out := { s.out with
        writes := s.out.writes ++ [.intn .high]
        diags := s.out.diags ++ if columnInRange c then [] else [.columnOutOfRange c] } } := by
  show execLineIndex c s = _
  unfold execLineIndex
  split <;> simp [State.driveIntn, State.emitDiag]

/-! What an event leaves unchanged. -/

/-- An instruction leaves the command set, the latches, the counter, DONE, the fault flag, the parameters and the
pending events alone. -/
theorem exec_frame {i : Instr} {s t : State} (h : exec i s = .next t) :
    t = { s with
      state := t.state, cmd := t.cmd, param := t.param, paramOff := t.paramOff, scene := t.scene, col := t.col
      row := t.row, hdr := t.hdr, hdrLen := t.hdrLen, intn := t.intn, redraw := t.redraw, fb := t.fb
      out := t.out } := by
  cases i with
  | programmingByte b =>
    cases h
    rw [hdrAppend_frame]
  | paramByte b =>
    change execParamByte b s = _ at h
    obtain ⟨-, heq⟩ | ⟨-, heq⟩ := execParamByte_cases b s <;> rw [heq] at h <;> cases h <;> rfl
  | lineIndex c =>
    rw [exec_lineIndex] at h
    cases h
    rfl
  | lineData b =>
    change execLineData b s = _ at h
    obtain ⟨-, heq⟩ | ⟨-, heq⟩ | ⟨-, -, heq⟩ | ⟨-, -, heq⟩ := execLineData_cases b s <;> rw [heq] at h <;>
      cases h <;> rfl
  | null | setParameter | displayOff | displayOn | drawScene | unknown0 b | frameBegin | frameData | frameEnd
  | unknown1 b | sceneBlack | sceneSplash | sceneUpdate | sceneError | sceneUnknown id =>
    cases h
    rfl

/-- The re-invocation completes, or starts SetParameter: it writes registers of the command only. -/
theorem reinvoke_frame (b : Byte) (s : State) :
    State.reinvoke b s = { s with
      state := (State.reinvoke b s).state, paramOff := (State.reinvoke b s).paramOff, scene := b
      intn := (State.reinvoke b s).intn, out := (State.reinvoke b s).out } := by
  obtain heq | heq | heq := reinvoke_cases b s <;> rw [heq] <;> rfl

/-- A byte leaves the command set, the latches, the counter, DONE, the parameters and the pending events alone. -/
theorem onByte_frame {b : Byte} {s t : State} (h : onByte b s = .next t) :
    t = { s with
      state := t.state, cmd := t.cmd, param := t.param, paramOff := t.paramOff, scene := t.scene, col := t.col
      row := t.row, hdr := t.hdr, hdrLen := t.hdrLen, intn := t.intn, redraw := t.redraw, fb := t.fb
      fault := t.fault, out := t.out } := by
  obtain ⟨-, heq⟩ | ⟨i, -, -, heq⟩ | ⟨-, -, heq⟩ | ⟨-, -, heq⟩ := onByte_cases b s <;> rw [heq] at h
  · cases h
    rfl
  · rw [exec_frame h]
  · cases h
    rfl
  · cases h
    rw [reinvoke_frame]

/-- A chip-select event writes its latch and what the abort writes. -/
theorem onChipSelect_frame (a : Bool) (s : State) :
    onChipSelect a s = { s with
      cs := a, state := (onChipSelect a s).state, paramOff := (onChipSelect a s).paramOff
      intn := (onChipSelect a s).intn, out := (onChipSelect a s).out } := by
  obtain ⟨rfl, heq⟩ | ⟨rfl, -, -, heq⟩ | ⟨-, -, heq⟩ := onChipSelect_cases a s
  · rw [heq]
  · rw [heq]
    rfl
  · rw [heq]

/-- A clock event writes its latch, the counter, DONE, and what the exit from Programming writes. -/
theorem onClock_frame {l : Level} {s t : State} (h : onClock l s = .next t) :
    t = { s with
      sclk := l, sclkCnt := t.sclkCnt, cdone := t.cdone, state := t.state, cmdset := t.cmdset
      paramOff := t.paramOff, intn := t.intn, out := t.out } := by
  obtain ⟨-, heq⟩ | ⟨-, heq⟩ | ⟨-, -, heq⟩ | ⟨-, -, heq⟩ := onClock_cases l s <;> rw [heq] at h
  · cases h
    rfl
  · cases h
    rfl
  · cases h
    rfl
  · obtain ⟨-, heq'⟩ | ⟨-, heq'⟩ := leaveProgramming_cases
      (State.driveDone true { s with sclk := l, sclkCnt := s.sclkCnt + 1#6 }) <;> rw [heq'] at h
    · rw [classifyHeader_eq] at h
      cases h
      rfl
    · cases h

/-- A reset event leaves both memories, the serial-clock and chip-select latches, `redraw`, the fault flag, the
parameters and the pending events alone. -/
theorem onReset_frame (r : Bool) (s : State) :
    onReset r s = { onReset r s with
      hdr := s.hdr, cs := s.cs, sclk := s.sclk, redraw := s.redraw, fb := s.fb, fault := s.fault, cfg := s.cfg
      inputs := s.inputs } := by
  obtain ⟨-, heq⟩ | ⟨-, -, heq⟩ | ⟨-, -, heq⟩ := onReset_cases r s <;> rw [heq] <;> rfl

/-- A `Render` writes the redraw flag and its outputs. -/
theorem onRender_frame (s : State) :
    onRender s = { s with redraw := (onRender s).redraw, out := (onRender s).out } := by
  obtain ⟨-, heq⟩ | ⟨-, heq⟩ := onRender_cases s <;> rw [heq]

end Sys2Proof.Machine
end

