-- ==== Sys2Proof/Proofs/StateInvariant.lean ====
section
/-!
PROOFS. The invariant (10_state.md R31 to R36), read as what holds in every protocol state and what holds in each;
every event keeps it and stops nothing.
-/
namespace Sys2Proof.Machine

/-! The invariant by protocol state. -/

/-- The clauses of the invariant about the header capture (10_state.md R14, 20_memory.md R45, R46). -/
def HeaderInv (s : State) : Prop :=
  s.hdrLen.toNat ≤ Config.hdrCap ∧ (∀ a, a < s.hdrLen.toNat → (Memory.lookup s.hdr a).isSome = true) ∧
    Memory.wf .hdr s.hdr = true

/-- The clauses of the invariant that do not speak of the protocol state. -/
def StorageInv (s : State) : Prop :=
  s.cfg.wf = true ∧ s.fault = false ∧ s.col.toNat < Config.cols ∧ HeaderInv s ∧ Memory.wf .fb s.fb = true

/-- What the invariant says of the counter, the command registers, the parameter offset and the row cursor in one
protocol state (10_state.md R31, R32 first clause, R34 to R36). -/
@[reducible] def ModeInv (s : State) : ProtocolState → Prop
  | .programming => s.sclkCnt.toNat ≤ 50 ∧ s.paramOff = 0#2
  | .acceptingCommand => s.sclkCnt = 51#6 ∧ s.cmdset ≠ .unknown ∧ s.paramOff = 0#2
  | .acceptingParameter => s.sclkCnt = 51#6 ∧ s.cmdset = .set0 ∧ s.cmd = s.cfg.cmd0SetParameter
  | .acceptingSceneByte =>
    s.sclkCnt = 51#6 ∧ s.cmdset = .set0 ∧ s.cmd = s.cfg.cmd0DrawScene ∧ s.paramOff = 0#2
  | .acceptingLineNumber =>
    s.sclkCnt = 51#6 ∧ s.cmdset = .set1 ∧ s.cmd = s.cfg.cmd1FrameData ∧ s.paramOff = 0#2
  | .acceptingData =>
    s.sclkCnt = 51#6 ∧ s.cmdset = .set1 ∧ s.cmd = s.cfg.cmd1FrameData ∧ s.paramOff = 0#2 ∧
      -(Config.topPad : Int) ≤ s.row ∧ s.row ≤ Config.rowStart

theorem counter_ne_full_iff {n : BitVec 6} (h : n.toNat ≤ 51) : n ≠ 51#6 ↔ n.toNat ≤ 50 := by
  rw [ne_eq, ← BitVec.toNat_inj, BitVec.toNat_ofNat]
  omega

theorem storageInv_of_inv {s : State} (h : Inv s) : StorageInv s :=
  ⟨h.params, h.noFault, h.colRange, ⟨h.hdrLenRange, h.hdrFilled, h.hdrWf⟩, h.fbWf⟩

theorem modeInv_of_inv {s : State} (h : Inv s) : ModeInv s s.state := by
  have hfull : s.state ≠ .programming → s.sclkCnt = 51#6 := h.counterFull.1
  have hoff := h.paramOffZero
  cases hs : s.state with
  | programming =>
    have hcnt : s.sclkCnt ≠ 51#6 := fun e => h.counterFull.2 e hs
    exact ⟨(counter_ne_full_iff h.counterRange).1 hcnt, hoff (by simp [hs])⟩
  | acceptingCommand => exact ⟨hfull (by simp [hs]), h.cmdsetKnown (by simp [hs]), hoff (by simp [hs])⟩
  | acceptingParameter => exact ⟨hfull (by simp [hs]), h.parameterMode hs⟩
  | acceptingSceneByte =>
    obtain ⟨hset, hcmd⟩ := h.sceneMode hs
    exact ⟨hfull (by simp [hs]), hset, hcmd, hoff (by simp [hs])⟩
  | acceptingLineNumber =>
    obtain ⟨hset, hcmd⟩ := h.streamMode (.inl hs)
    exact ⟨hfull (by simp [hs]), hset, hcmd, hoff (by simp [hs])⟩
  | acceptingData =>
    obtain ⟨hset, hcmd⟩ := h.streamMode (.inr hs)
    exact ⟨hfull (by simp [hs]), hset, hcmd, hoff (by simp [hs]), h.rowRange hs⟩

theorem inv_of_storageInv_of_modeInv {s : State} (hstore : StorageInv s) (hmode : ModeInv s s.state) : Inv s := by
  obtain ⟨hcfg, hfault, hcol, ⟨hlen, hfilled, hhdr⟩, hfb⟩ := hstore
  have hcounter : s.sclkCnt.toNat ≤ 51 ∧ (s.state ≠ .programming ↔ s.sclkCnt = 51#6) := by
    cases hs : s.state <;> rw [hs] at hmode <;> obtain ⟨hcnt, -⟩ := hmode
    case programming =>
      have hle : s.sclkCnt.toNat ≤ 51 := by omega
      simpa [hle] using (counter_ne_full_iff hle).2 hcnt
    all_goals simp [hcnt]
  obtain ⟨hrange, hfull⟩ := hcounter
  refine
    { params := hcfg, noFault := hfault, counterRange := hrange, counterFull := hfull, colRange := hcol
      hdrLenRange := hlen, hdrFilled := hfilled, hdrWf := hhdr, fbWf := hfb
      cmdsetKnown := ?_, rowRange := ?_, paramOffZero := ?_, parameterMode := ?_, sceneMode := ?_
      streamMode := ?_ }
  -- Each clause that is left asks something of some protocol states only.
  all_goals cases hs : s.state <;> rw [hs] at hmode <;> simp_all [ModeInv]

/-- The invariant is what holds in every protocol state, together with what holds in the present one. -/
theorem inv_iff (s : State) : Inv s ↔ StorageInv s ∧ ModeInv s s.state :=
  ⟨fun h => ⟨storageInv_of_inv h, modeInv_of_inv h⟩, fun h => inv_of_storageInv_of_modeInv h.1 h.2⟩

/-- Taking an event touches nothing the invariant speaks of. -/
theorem inv_receive {s : State} (h : Inv s) (e : Event) (rest : List Event) : Inv (State.receive s e rest) :=
  (inv_iff _).2 ((inv_iff s).1 h)

/-! What an outcome must be, and the moves the meanings share. -/

/-- The outcome is a next state, and that state has the invariant. -/
def AnswersInv (o : Host.Outcome State Fault Refusal) : Prop := ∃ t, o = .next t ∧ Inv t

/-- The protocol state of the answer is named, so that what is asked there can be read off. -/
theorem answersInv_in (m : ProtocolState) {t : State} (hstore : StorageInv t) (hst : t.state = m)
    (hmode : ModeInv t m) : AnswersInv (.next t) :=
  ⟨t, rfl, inv_of_storageInv_of_modeInv hstore (hst ▸ hmode)⟩

/-- The event keeps everything the invariant speaks of. -/
theorem answersInv_next {t : State} (hstore : StorageInv t) (hmode : ModeInv t t.state) : AnswersInv (.next t) :=
  answersInv_in _ hstore rfl hmode

/-- A completion ends in AcceptingCommand, whatever the state was, if the counter is full and the command set known. -/
theorem answersInv_complete {s : State} (hstore : StorageInv s) (hcnt : s.sclkCnt = 51#6)
    (hset : s.cmdset ≠ .unknown) : AnswersInv (.next (State.complete true s)) :=
  answersInv_in .acceptingCommand hstore rfl ⟨hcnt, hset, rfl⟩

theorem ne_unknown_of_eq_set0 {c : CmdSet} (h : c = .set0) : c ≠ .unknown := by simp [h]

theorem ne_unknown_of_eq_set1 {c : CmdSet} (h : c = .set1) : c ≠ .unknown := by simp [h]

/-! Bytes, by the protocol state in which they arrive. -/

/-- A captured byte is written and in range, and the others stand. -/
theorem headerInv_hdrAppend (b : Byte) {s : State} (h : HeaderInv s) : HeaderInv (State.hdrAppend b s) := by
  obtain ⟨hlen, hfilled, hwf⟩ := h
  obtain ⟨hroom, heq⟩ | ⟨-, heq⟩ := hdrAppend_cases b s <;> rw [heq]
  · have hlen' : (s.hdrLen + 1#9).toNat = s.hdrLen.toNat + 1 := by
      simp only [BitVec.toNat_add, BitVec.toNat_ofNat, Config.hdrCap] at hroom ⊢
      omega
    refine ⟨?_, fun a ha => ?_, write_keeps_wf b hwf hroom⟩
    · show (s.hdrLen + 1#9).toNat ≤ Config.hdrCap
      omega
    · replace ha : a < (s.hdrLen + 1#9).toNat := ha
      by_cases hlast : a = s.hdrLen.toNat
      · simp [hlast]
      · exact isSome_lookup_write _ _ _ _ (hfilled a (by omega))
  · exact ⟨hlen, hfilled, hwf⟩

theorem programmingByte_answersInv (b : Byte) {s : State} (hst : s.state = .programming) (hstore : StorageInv s)
    (hmode : ModeInv s .programming) : AnswersInv (exec (.programmingByte b) s) := by
  obtain ⟨hcfg, hfault, hcol, hhdr, hfb⟩ := hstore
  have hhdr' := headerInv_hdrAppend b hhdr
  show AnswersInv (.next (State.hdrAppend b s))
  rw [hdrAppend_frame] at hhdr' ⊢
  exact answersInv_in .programming ⟨hcfg, hfault, hcol, hhdr', hfb⟩ hst hmode

theorem set0Command_answersInv (b : Byte) {s : State} (hset : s.cmdset = .set0) (hstore : StorageInv s)
    (hmode : ModeInv s .acceptingCommand) : AnswersInv (exec (decodeSet0 s.cfg b) s) := by
  obtain ⟨hcnt, hknown, hoff⟩ := hmode
  obtain ⟨-, hd⟩ | ⟨-, hd⟩ | ⟨-, hd⟩ | ⟨-, hd⟩ | ⟨-, hd⟩ | ⟨-, hd⟩ := decodeSet0_cases s.cfg b <;> rw [hd]
  · exact answersInv_complete hstore hcnt hknown
  · exact answersInv_in .acceptingParameter hstore rfl ⟨hcnt, hset, rfl⟩
  · exact answersInv_complete hstore hcnt hknown
  · exact answersInv_complete hstore hcnt hknown
  · exact answersInv_in .acceptingSceneByte hstore rfl ⟨hcnt, hset, rfl, hoff⟩
  · exact answersInv_complete hstore hcnt hknown

theorem set1Command_answersInv (b : Byte) {s : State} (hst : s.state = .acceptingCommand) (hset : s.cmdset = .set1)
    (hstore : StorageInv s) (hmode : ModeInv s .acceptingCommand) :
    AnswersInv (exec (decodeSet1 s.cfg b) s) := by
  obtain ⟨hcnt, hknown, hoff⟩ := hmode
  obtain ⟨-, hd⟩ | ⟨-, hd⟩ | ⟨-, hd⟩ | ⟨-, hd⟩ := decodeSet1_cases s.cfg b <;> rw [hd]
  · exact answersInv_in .acceptingCommand hstore hst ⟨hcnt, hknown, hoff⟩
  · exact answersInv_in .acceptingLineNumber hstore rfl ⟨hcnt, hset, rfl, hoff⟩
  · exact answersInv_complete hstore hcnt hknown
  · exact answersInv_complete hstore hcnt hknown

theorem paramByte_answersInv (b : Byte) {s : State} (hst : s.state = .acceptingParameter) (hstore : StorageInv s)
    (hmode : ModeInv s .acceptingParameter) : AnswersInv (exec (.paramByte b) s) := by
  show AnswersInv (execParamByte b s)
  obtain ⟨-, heq⟩ | ⟨-, heq⟩ := execParamByte_cases b s <;> rw [heq]
  · obtain ⟨hcnt, hset, -⟩ := hmode
    exact answersInv_complete hstore hcnt (ne_unknown_of_eq_set0 hset)
  · exact answersInv_in .acceptingParameter hstore hst hmode

/-- A scene that draws replaces the framebuffer by a canonical one and completes. -/
theorem drawn_answersInv (id : Byte) (draw : State → State) (f : Memory → Memory)
    (hdraw : ∀ t : State, draw t = { t with fb := f t.fb }) {s : State} (hwf : Memory.wf .fb (f s.fb) = true)
    (hstore : StorageInv s) (hcnt : s.sclkCnt = 51#6) (hset : s.cmdset ≠ .unknown) :
    AnswersInv (.next (State.drawn id draw s)) := by
  obtain ⟨hcfg, hfault, hcol, hhdr, -⟩ := hstore
  rw [drawn_eq id draw f hdraw]
  exact answersInv_in .acceptingCommand ⟨hcfg, hfault, hcol, hhdr, hwf⟩ rfl ⟨hcnt, hset, rfl⟩

theorem filled_answersInv (id v : Byte) {s : State} (hstore : StorageInv s) (hcnt : s.sclkCnt = 51#6)
    (hset : s.cmdset ≠ .unknown) : AnswersInv (.next (State.drawn id (State.fbFill v) s)) :=
  drawn_answersInv id (State.fbFill v) (fun _ => Memory.build Config.fbSize fun _ => some v) (fun _ => rfl)
    (build_wf _ (Nat.le_refl _)) hstore hcnt hset

theorem sceneByte_answersInv (b : Byte) {s : State} (hstore : StorageInv s)
    (hmode : ModeInv s .acceptingSceneByte) : AnswersInv (exec (decodeScene s.cfg b) s) := by
  obtain ⟨hcnt, hset, -, -⟩ := hmode
  have hknown := ne_unknown_of_eq_set0 hset
  obtain ⟨-, hd⟩ | ⟨-, hd⟩ | ⟨-, hd⟩ | ⟨-, hd⟩ | ⟨-, hd⟩ := decodeScene_cases s.cfg b <;> rw [hd]
  · exact filled_answersInv _ _ hstore hcnt hknown
  · exact drawn_answersInv _ _ splashRender (fun _ => rfl) (splashRender_wf _) hstore hcnt hknown
  · exact filled_answersInv _ _ hstore hcnt hknown
  · exact filled_answersInv _ _ hstore hcnt hknown
  · exact answersInv_complete hstore hcnt hknown

theorem lineIndex_answersInv (c : Byte) {s : State} (hstore : StorageInv s)
    (hmode : ModeInv s .acceptingLineNumber) : AnswersInv (exec (.lineIndex c) s) := by
  obtain ⟨hcfg, hfault, -, hhdr, hfb⟩ := hstore
  obtain ⟨hcnt, hset, hcmd, hoff⟩ := hmode
  have hrow : -(Config.topPad : Int) ≤ Config.rowStart ∧ Config.rowStart ≤ Config.rowStart := by decide
  rw [exec_lineIndex]
  exact answersInv_in .acceptingData ⟨hcfg, hfault, columnOf_lt c, hhdr, hfb⟩ rfl
    ⟨hcnt, hset, hcmd, hoff, hrow⟩

/-- In a line the column is in range (R33), so no byte of it stops the model, and the cursor ends at the trigger. -/
theorem lineData_answersInv (b : Byte) {s : State} (hst : s.state = .acceptingData) (hstore : StorageInv s)
    (hmode : ModeInv s .acceptingData) : AnswersInv (exec (.lineData b) s) := by
  obtain ⟨hcfg, hfault, hcol, hhdr, hfb⟩ := hstore
  obtain ⟨hcnt, hset, hcmd, hoff, hlow, hhigh⟩ := hmode
  have hnext (fb : Memory) (hfb : Memory.wf .fb fb = true) (hrow : s.row ≠ -17) :
      AnswersInv (.next { s with fb := fb, row := s.row - 1 }) := by
    have hrow' : -(Config.topPad : Int) ≤ s.row - 1 ∧ s.row - 1 ≤ Config.rowStart := by
      simp only [Config.topPad] at hlow ⊢
      omega
    exact answersInv_in .acceptingData ⟨hcfg, hfault, hcol, hhdr, hfb⟩ hst ⟨hcnt, hset, hcmd, hoff, hrow'⟩
  show AnswersInv (execLineData b s)
  obtain ⟨-, heq⟩ | ⟨hrow, heq⟩ | ⟨⟨hrow₀, hrow₁⟩, hlt, heq⟩ | ⟨-, hge, -⟩ := execLineData_cases b s
  · rw [heq]
    exact answersInv_in .acceptingLineNumber ⟨hcfg, hfault, hcol, hhdr, hfb⟩ rfl ⟨hcnt, hset, hcmd, hoff⟩
  · rw [heq]
    exact hnext s.fb hfb (by omega)
  · rw [heq]
    have haddr : fbAddr s.row.toNat s.col.toNat < Space.fb.size :=
      fbAddr_lt (by simp only [Config.rows]; omega) hcol
    exact hnext _ (write_keeps_wf b hfb haddr) (by omega)
  · simp only [Config.cols] at hcol
    omega

theorem onByte_answersInv (b : Byte) {s : State} (h : Inv s) : AnswersInv (onByte b s) := by
  obtain ⟨hstore, hmode⟩ := (inv_iff s).1 h
  by_cases hcs : s.cs = true
  · cases hst : s.state with
    | programming =>
      rw [onByte_of_decode hcs (decode_programming _ b hst)]
      exact programmingByte_answersInv b hst hstore (hst ▸ hmode)
    | acceptingCommand =>
      cases hset : s.cmdset with
      | unknown => exact absurd hset (h.cmdsetKnown (by simp [hst]))
      | set0 =>
        rw [onByte_of_decode hcs (decode_set0 _ b hst hset)]
        exact set0Command_answersInv b hset hstore (hst ▸ hmode)
      | set1 =>
        rw [onByte_of_decode hcs (decode_set1 _ b hst hset)]
        exact set1Command_answersInv b hst hset hstore (hst ▸ hmode)
    | acceptingParameter =>
      rw [onByte_of_decode hcs (decode_parameter _ b hst)]
      exact paramByte_answersInv b hst hstore (hst ▸ hmode)
    | acceptingSceneByte =>
      obtain ⟨-, hcmd⟩ := h.sceneMode hst
      have hdraw : decodeSet0 s.cfg s.cmd = .drawScene := hcmd ▸ decodeSet0_drawScene h.params
      rw [onByte_of_decode hcs (decode_scene _ b hst hdraw)]
      exact sceneByte_answersInv b hstore (hst ▸ hmode)
    | acceptingLineNumber =>
      rw [onByte_of_decode hcs (decode_lineNumber _ b hst)]
      exact lineIndex_answersInv b hstore (hst ▸ hmode)
    | acceptingData =>
      rw [onByte_of_decode hcs (decode_data _ b hst)]
      exact lineData_answersInv b hst hstore (hst ▸ hmode)
  · rw [onByte, if_neg hcs]
    exact answersInv_next hstore hmode

/-! Signals and rendering. -/

theorem onChipSelect_answersInv (a : Bool) {s : State} (h : Inv s) : AnswersInv (.next (onChipSelect a s)) := by
  obtain ⟨hstore, hmode⟩ := (inv_iff s).1 h
  obtain ⟨-, heq⟩ | ⟨-, -, hst, heq⟩ | ⟨-, -, heq⟩ := onChipSelect_cases a s <;> rw [heq]
  · exact answersInv_next hstore hmode
  · exact answersInv_complete hstore (h.counterFull.1 hst) (h.cmdsetKnown hst)
  · exact answersInv_next hstore hmode

/-- A counter that can still count says that the device is in Programming (R32). -/
theorem programming_of_counter_le {s : State} (h : Inv s) (hcnt : s.sclkCnt.toNat ≤ 50) : s.state = .programming := by
  by_contra hst
  have hfull := h.counterFull.1 hst
  simp [hfull] at hcnt

/-- The exit from Programming: the classifier always finds a command set, and the capture is in range. -/
theorem leaveProgramming_answersInv {s : State} (hstore : StorageInv s) (hcnt : s.sclkCnt = 51#6) :
    AnswersInv (leaveProgramming s) := by
  have ⟨_, _, _, ⟨hlen, _⟩, _⟩ := hstore
  obtain ⟨-, heq⟩ | ⟨hgt, -⟩ := leaveProgramming_cases s
  · rw [heq, classifyHeader_eq]
    exact answersInv_in .acceptingCommand hstore rfl ⟨hcnt, toCmdSet_ne_unknown _, rfl⟩
  · omega

theorem onClock_answersInv (l : Level) {s : State} (h : Inv s) : AnswersInv (onClock l s) := by
  obtain ⟨hstore, hmode⟩ := (inv_iff s).1 h
  obtain ⟨-, heq⟩ | ⟨⟨-, -, hlt⟩, heq⟩ | ⟨⟨-, -, h50⟩, hst, -⟩ | ⟨⟨-, -, h50⟩, -, heq⟩ := onClock_cases l s
  · rw [heq]
    exact answersInv_next hstore hmode
  · have hst := programming_of_counter_le h (by omega)
    rw [hst] at hmode
    obtain ⟨-, hoff⟩ := hmode
    have hcnt : (s.sclkCnt + 1#6).toNat ≤ 50 := by rw [counter_succ_toNat] <;> omega
    rw [heq]
    exact answersInv_in .programming hstore hst ⟨hcnt, hoff⟩
  · exact absurd (programming_of_counter_le h (by omega)) hst
  · rw [heq]
    refine leaveProgramming_answersInv hstore ?_
    show s.sclkCnt + 1#6 = 51#6
    rw [← BitVec.toNat_inj, counter_succ_toNat (by omega), h50]
    rfl

/-- An empty capture asks nothing of the bytes that stand in the space. -/
theorem headerInv_of_empty {s : State} (hlen : s.hdrLen = 0#9) (hwf : Memory.wf .hdr s.hdr = true) :
    HeaderInv s := by
  refine ⟨?_, fun a ha => ?_, hwf⟩
  · simp [hlen]
  · simp [hlen] at ha

theorem col_zero_lt : (0x00#8 : Byte).toNat < Config.cols := by decide

theorem onReset_answersInv (r : Bool) {s : State} (h : Inv s) : AnswersInv (.next (onReset r s)) := by
  obtain ⟨hstore, hmode⟩ := (inv_iff s).1 h
  obtain ⟨-, heq⟩ | ⟨-, -, heq⟩ | ⟨-, -, heq⟩ := onReset_cases r s <;> rw [heq]
  · exact answersInv_next hstore hmode
  · exact answersInv_next hstore hmode
  · obtain ⟨hcfg, hfault, -, ⟨-, -, hhdr⟩, hfb⟩ := hstore
    exact answersInv_in .programming ⟨hcfg, hfault, col_zero_lt, headerInv_of_empty rfl hhdr, hfb⟩ rfl
      ⟨Nat.zero_le _, rfl⟩

theorem onRender_answersInv {s : State} (h : Inv s) : AnswersInv (.next (onRender s)) := by
  obtain ⟨hstore, hmode⟩ := (inv_iff s).1 h
  obtain ⟨-, heq⟩ | ⟨-, heq⟩ := onRender_cases s <;> rw [heq] <;> exact answersInv_next hstore hmode

/-! The step, the run, and the statements. -/

theorem handle_answersInv (e : Event) {s : State} (h : Inv s) : AnswersInv (handle e s) := by
  cases e with
  | byte b => exact onByte_answersInv b h
  | chipSelect a => exact onChipSelect_answersInv a h
  | clock l => exact onClock_answersInv l h
  | reset r => exact onReset_answersInv r h
  | render => exact onRender_answersInv h

/-- From a state with the invariant the step stops nothing and answers a state with the invariant. -/
theorem step_answersInv {s : State} (h : Inv s) : AnswersInv (step s) := by
  obtain ⟨-, heq⟩ | ⟨e, rest, -, hfault, -⟩ | ⟨e, rest, -, -, heq⟩ := step_cases s
  · exact ⟨s, heq, h⟩
  · exact absurd hfault (by simp [h.noFault])
  · rw [heq]
    exact handle_answersInv e (inv_receive h e rest)

theorem runSteps_answersInv (k : Nat) {s : State} (h : Inv s) : AnswersInv (runSteps k s) := by
  induction k generalizing s with
  | zero => exact ⟨s, runSteps_zero s, h⟩
  | succ k ih =>
    obtain ⟨t, ht, hinv⟩ := step_answersInv h
    rw [runSteps_next ht]
    exact ih hinv

theorem reportsFault_of_answersInv {o : Host.Outcome State Fault Refusal} (h : AnswersInv o) :
    reportsFault o = false := by
  obtain ⟨t, rfl, hinv⟩ := h
  exact hinv.noFault

/-- Power-on with any events pending. -/
theorem inv_reset (es : List Event) : Inv { State.reset with inputs := es } := by
  have hparams : Config.defaults.wf = true := by decide
  exact inv_of_storageInv_of_modeInv ⟨hparams, rfl, col_zero_lt, headerInv_of_empty rfl (wf_nil _), wf_nil _⟩
    (show ModeInv _ .programming from ⟨Nat.zero_le _, rfl⟩)

/-- Settles O47: an empty capture, a zero counter and distinct default parameters. -/
theorem resetHasInvariant : Obligations.ResetHasInvariant := inv_reset []

/-- Settles O48: every event's handling answers a state with the invariant. -/
theorem stepKeepsInvariant : Obligations.StepKeepsInvariant := by
  intro s t h ht
  obtain ⟨u, hu, hinv⟩ := step_answersInv h
  rw [ht] at hu
  cases hu
  exact hinv

/-- Settles O49: the same fact, carried along every run from power-on. -/
theorem noFaultFromPowerOn : Obligations.NoFaultFromPowerOn :=
  ⟨fun _ h => reportsFault_of_answersInv (step_answersInv h),
    fun es k => reportsFault_of_answersInv (runSteps_answersInv k (inv_reset es))⟩

end Sys2Proof.Machine
end

