-- ==== Sys2Proof/Proofs/StateWriters.lean ====
section
/-!
PROOFS. Which events write the framebuffer (10_state.md R29) and which the command set (R13, 30_encoding.md R60):
an event whose frame has the field unchanged is not one of them.
-/
namespace Sys2Proof.Machine

/-! The framebuffer. -/

/-- An instruction that writes the framebuffer is a scene byte, or a data byte with the row cursor visible. -/
theorem exec_fb {i : Instr} {s t : State} (h : exec i s = .next t) (hfb : t.fb ≠ s.fb) :
    i.arrivalState = .acceptingSceneByte ∨ i.arrivalState = .acceptingData ∧ 0 ≤ s.row ∧ s.row < 172 := by
  cases i with
  | sceneBlack | sceneSplash | sceneUpdate | sceneError | sceneUnknown id => exact .inl rfl
  | lineData b =>
    change execLineData b s = _ at h
    obtain ⟨-, heq⟩ | ⟨-, heq⟩ | ⟨hrow, -, -⟩ | ⟨hrow, -, -⟩ := execLineData_cases b s
    · rw [heq] at h
      cases h
      exact absurd rfl hfb
    · rw [heq] at h
      cases h
      exact absurd rfl hfb
    · exact .inr ⟨rfl, hrow⟩
    · exact .inr ⟨rfl, hrow⟩
  | programmingByte b =>
    cases h
    rw [hdrAppend_frame] at hfb
    exact absurd rfl hfb
  | paramByte b =>
    change execParamByte b s = _ at h
    obtain ⟨-, heq⟩ | ⟨-, heq⟩ := execParamByte_cases b s <;> rw [heq] at h <;> cases h <;> exact absurd rfl hfb
  | lineIndex c =>
    rw [exec_lineIndex] at h
    cases h
    exact absurd rfl hfb
  | null | setParameter | displayOff | displayOn | drawScene | unknown0 b | frameBegin | frameData | frameEnd
  | unknown1 b =>
    cases h
    exact absurd rfl hfb

theorem onByte_fb {b : Byte} {s t : State} (h : onByte b s = .next t) (hfb : t.fb ≠ s.fb) :
    s.cs = true ∧ (s.state = .acceptingSceneByte ∨ s.state = .acceptingData ∧ 0 ≤ s.row ∧ s.row < 172) := by
  obtain ⟨-, heq⟩ | ⟨i, hcs, hd, heq⟩ | ⟨-, -, heq⟩ | ⟨-, -, heq⟩ := onByte_cases b s <;> rw [heq] at h
  · cases h
    exact absurd rfl hfb
  · have harrival : i.arrivalState = s.state := arrivalState_of_decode hd
    exact ⟨hcs, harrival ▸ exec_fb h hfb⟩
  · cases h
    exact absurd rfl hfb
  · cases h
    rw [reinvoke_frame] at hfb
    exact absurd rfl hfb

/-- Of the events only a byte can write the framebuffer. -/
theorem handle_fb {e : Event} {s t : State} (h : handle e s = .next t) (hfb : t.fb ≠ s.fb) :
    ∃ b, e = .byte b ∧ onByte b s = .next t := by
  cases e with
  | byte b => exact ⟨b, rfl, h⟩
  | chipSelect a =>
    cases h
    exact absurd (congrArg State.fb (onChipSelect_frame a s)) hfb
  | clock l => exact absurd (congrArg State.fb (onClock_frame h)) hfb
  | reset r =>
    cases h
    exact absurd (congrArg State.fb (onReset_frame r s)) hfb
  | render =>
    cases h
    exact absurd (congrArg State.fb (onRender_frame s)) hfb

/-- Settles O50: past both gates only a byte writes the framebuffer, and the decoder ties it to the state. -/
theorem framebufferWriters : Obligations.FramebufferWriters := by
  intro s t h hfb
  obtain ⟨-, heq⟩ | ⟨e, rest, -, -, heq⟩ | ⟨e, rest, hin, hfault, heq⟩ := step_cases s <;> rw [heq] at h
  · cases h
    exact absurd rfl hfb
  · cases h
    exact absurd rfl hfb
  · obtain ⟨b, rfl, hb⟩ := handle_fb h hfb
    obtain ⟨hcs, hst⟩ := onByte_fb hb hfb
    exact ⟨hfault, hcs, ⟨b, rest, hin⟩, hst⟩

/-! The command set and the parameters. -/

theorem handle_cfg {e : Event} {s t : State} (h : handle e s = .next t) : t.cfg = s.cfg := by
  cases e with
  | byte b => exact (congrArg State.cfg (onByte_frame h)).trans rfl
  | chipSelect a =>
    cases h
    exact (congrArg State.cfg (onChipSelect_frame a s)).trans rfl
  | clock l => exact (congrArg State.cfg (onClock_frame h)).trans rfl
  | reset r =>
    cases h
    exact (congrArg State.cfg (onReset_frame r s)).trans rfl
  | render =>
    cases h
    exact (congrArg State.cfg (onRender_frame s)).trans rfl

/-- A clock event that changes the command set is the rising edge that leaves Programming. -/
theorem onClock_cmdset {l : Level} {s t : State} (h : onClock l s = .next t) (hset : t.cmdset ≠ s.cmdset) :
    l = .high ∧ s.state = .programming ∧ t.state = .acceptingCommand := by
  obtain ⟨-, heq⟩ | ⟨-, heq⟩ | ⟨-, -, heq⟩ | ⟨⟨hrise, -, -⟩, hst, heq⟩ := onClock_cases l s <;> rw [heq] at h
  · cases h
    exact absurd rfl hset
  · cases h
    exact absurd rfl hset
  · cases h
    exact absurd rfl hset
  · have hhigh : l = .high := by
      simp only [rising, Bool.and_eq_true, decide_eq_true_eq] at hrise
      exact hrise.2
    obtain ⟨-, heq'⟩ | ⟨-, heq'⟩ := leaveProgramming_cases
      (State.driveDone true { s with sclk := l, sclkCnt := s.sclkCnt + 1#6 }) <;> rw [heq'] at h
    · rw [classifyHeader_eq] at h
      cases h
      exact ⟨hhigh, hst, rfl⟩
    · cases h

/-- A reset event that changes the command set is the release edge. -/
theorem onReset_cmdset {r : Bool} {s : State} (hset : (onReset r s).cmdset ≠ s.cmdset) :
    r = false ∧ s.rst = true ∧ (onReset r s).state = .programming := by
  obtain ⟨-, heq⟩ | ⟨-, -, heq⟩ | ⟨hr, hrst, heq⟩ := onReset_cases r s <;> rw [heq] at hset ⊢
  · exact absurd rfl hset
  · exact absurd rfl hset
  · exact ⟨hr, hrst, rfl⟩

theorem handle_cmdset {e : Event} {s t : State} (h : handle e s = .next t) (hset : t.cmdset ≠ s.cmdset) :
    e = .clock .high ∧ s.state = .programming ∧ t.state = .acceptingCommand ∨
      e = .reset false ∧ s.rst = true ∧ t.state = .programming := by
  cases e with
  | byte b => exact absurd (congrArg State.cmdset (onByte_frame h)) hset
  | chipSelect a =>
    cases h
    exact absurd (congrArg State.cmdset (onChipSelect_frame a s)) hset
  | clock l =>
    obtain ⟨rfl, hst⟩ := onClock_cmdset h hset
    exact .inl ⟨rfl, hst⟩
  | reset r =>
    cases h
    obtain ⟨rfl, hst⟩ := onReset_cmdset hset
    exact .inr ⟨rfl, hst⟩
  | render =>
    cases h
    exact absurd (congrArg State.cmdset (onRender_frame s)) hset

/-- Settles O52: bytes, chip-select and `Render` frame the command set, and every event frames the parameters. -/
theorem commandSetWriters : Obligations.CommandSetWriters := by
  intro s t h
  obtain ⟨-, heq⟩ | ⟨e, rest, -, -, heq⟩ | ⟨e, rest, hin, -, heq⟩ := step_cases s <;> rw [heq] at h
  · cases h
    exact ⟨rfl, fun hset => absurd rfl hset⟩
  · cases h
    exact ⟨rfl, fun hset => absurd rfl hset⟩
  · refine ⟨(handle_cfg h).trans (receive_cfg e rest s), fun hset => ?_⟩
    obtain ⟨rfl, hst⟩ | ⟨rfl, hst⟩ := handle_cmdset h hset
    · exact .inl ⟨⟨rest, hin⟩, hst⟩
    · exact .inr ⟨⟨rest, hin⟩, hst⟩

end Sys2Proof.Machine
end

