-- ==== Sys2Proof/Proofs/ParameterUnobservable.lean ====
section
/-!
PROOFS. Nothing reads the parameter register (10_state.md R23, 91_not_in_source.md N9): each meaning, run on a state
with another parameter, stops alike or answers the same next state but for the parameter.
-/
namespace Sys2Proof.Machine

/-- The meaning does not read the parameter: with another one it stops alike, or answers next states that are
equal but for it. -/
def ParamBlind (f : State → Host.Outcome State Fault Refusal) : Prop :=
  ∀ (s : State) (p : BitVec 32), OutcomeRel differInParam (f s) (f { s with param := p })

theorem eq_withParam_of_differInParam {s t : State} (h : differInParam s t) :
    ∃ p, t = { s with param := p } := ⟨t.param, h⟩

/-! The operations with a branch. -/

theorem differInParam_hdrAppend (b : Byte) (s : State) (p : BitVec 32) :
    differInParam (State.hdrAppend b s) (State.hdrAppend b { s with param := p }) := by
  unfold State.hdrAppend
  dsimp only
  split <;> rfl

theorem differInParam_reinvoke (b : Byte) (s : State) (p : BitVec 32) :
    differInParam (State.reinvoke b s) (State.reinvoke b { s with param := p }) := by
  unfold State.reinvoke
  dsimp only
  split_ifs <;> rfl

theorem differInParam_onChipSelect (a : Bool) (s : State) (p : BitVec 32) :
    differInParam (onChipSelect a s) (onChipSelect a { s with param := p }) := by
  unfold onChipSelect
  dsimp only
  split_ifs <;> rfl

theorem differInParam_onRender (s : State) (p : BitVec 32) :
    differInParam (onRender s) (onRender { s with param := p }) := by
  unfold onRender
  dsimp only
  split_ifs <;> rfl

/-- The reset release is the one signal that writes the parameter, and it writes zero. -/
theorem differInParam_onReset (r : Bool) (s : State) (p : BitVec 32) :
    differInParam (onReset r s) (onReset r { s with param := p }) := by
  unfold onReset
  dsimp only
  split_ifs <;> rfl

theorem leaveProgramming_paramBlind : ParamBlind leaveProgramming := by
  intro s p
  unfold leaveProgramming
  simp only [classifyHeader_eq]
  split <;> rfl

theorem onClock_paramBlind (l : Level) : ParamBlind (onClock l) := by
  intro s p
  unfold onClock
  dsimp only
  split_ifs
  · exact leaveProgramming_paramBlind _ p
  all_goals rfl

/-! The instructions. -/

theorem execParamByte_paramBlind (b : Byte) : ParamBlind (execParamByte b) := by
  intro s p
  unfold execParamByte
  dsimp only
  split <;> rfl

theorem execLineData_paramBlind (b : Byte) : ParamBlind (execLineData b) := by
  intro s p
  unfold execLineData State.fbWrite
  dsimp only
  cases rowClass s.row with
  | visible =>
    dsimp only
    split_ifs <;> rfl
  | trigger | bottomPadding | topPadding => rfl

theorem exec_paramBlind (i : Instr) : ParamBlind (exec i) := by
  intro s p
  cases i with
  | programmingByte b => exact differInParam_hdrAppend b s p
  | paramByte b => exact execParamByte_paramBlind b s p
  | lineIndex c =>
    rw [exec_lineIndex, exec_lineIndex]
    rfl
  | lineData b => exact execLineData_paramBlind b s p
  | null | setParameter | displayOff | displayOn | drawScene | unknown0 b | frameBegin | frameData | frameEnd
  | unknown1 b | sceneBlack | sceneSplash | sceneUpdate | sceneError | sceneUnknown id => rfl

/-! The events. -/

/-- The decoder reads the parameters and the mode, and the parameter register is in neither. -/
theorem onByte_paramBlind (b : Byte) : ParamBlind (onByte b) := by
  intro s p
  by_cases hcs : s.cs = true
  · cases hd : decode s.cfg s.mode b with
    | ok i =>
      rw [onByte_of_decode hcs hd, onByte_of_decode (s := { s with param := p }) hcs hd]
      exact exec_paramBlind i s p
    | error r =>
      rw [onByte_of_reject hcs hd, onByte_of_reject (s := { s with param := p }) hcs hd]
      cases r with
      | unknownCommandSet => rfl
      | sceneWithoutDrawScene => exact differInParam_reinvoke b s p
  · rw [onByte, onByte, if_neg hcs, if_neg hcs]
    rfl

theorem handle_paramBlind (e : Event) : ParamBlind (handle e) := by
  intro s p
  cases e with
  | byte b => exact onByte_paramBlind b s p
  | chipSelect a => exact differInParam_onChipSelect a s p
  | clock l => exact onClock_paramBlind l s p
  | reset r => exact differInParam_onReset r s p
  | render => exact differInParam_onRender s p

theorem step_paramBlind : ParamBlind step := by
  intro s p
  obtain ⟨hi, heq⟩ | ⟨e, rest, hi, hf, heq⟩ | ⟨e, rest, hi, hf, heq⟩ := step_cases s <;> rw [heq]
  · rw [step_of_no_event (s := { s with param := p }) hi]
    rfl
  · rw [step_of_fault (s := { s with param := p }) hi hf]
    rfl
  · rw [step_of_event (s := { s with param := p }) hi hf]
    exact handle_paramBlind e (State.receive s e rest) p

/-- Settles O56: no event's meaning reads the parameter, so neither does the step. -/
theorem parameterUnobservable : Obligations.ParameterUnobservable := by
  intro s t h
  obtain ⟨p, rfl⟩ := eq_withParam_of_differInParam h
  exact step_paramBlind s p

end Sys2Proof.Machine
end

