-- ==== Sys2Proof/Proofs/DoneOverZeroCounter.lean ====
section
/-!
PROOFS. The run from power-on against the second clause of 10_state.md R32 (log 22): the edges that assert DONE are
counted while reset is held (70_reset_and_hazards.md R143), and the release zeroes the counter and keeps DONE (R140).
-/
namespace Sys2Proof.Machine

/-- `n` pulses of the serial clock, each a rising and a falling edge. -/
def clockPulses : Nat → List Event
  | 0 => []
  | n + 1 => .clock .high :: .clock .low :: clockPulses n

/-- A clock event on a device with chip-select inactive, below the threshold: the rising edge counts. -/
theorem step_clock_counts {s : State} {rest : List Event} (hi : s.inputs = .clock .high :: rest)
    (hf : s.fault = false) (hcs : s.cs = false) (hlow : s.sclk = .low) (hcnt : s.sclkCnt.toNat < 50) :
    step s = .next { s with inputs := rest, sclk := .high, sclkCnt := s.sclkCnt + 1#6, out := {} } := by
  rw [step_of_event hi hf]
  show onClock .high (State.receive s (.clock .high) rest) = _
  obtain ⟨hno, -⟩ | ⟨-, heq⟩ | ⟨⟨-, -, h50⟩, -⟩ | ⟨⟨-, -, h50⟩, -⟩ :=
    onClock_cases .high (State.receive s (.clock .high) rest)
  · exact absurd ⟨by simp [hlow, rising], hcs, Nat.le_of_lt hcnt⟩ hno
  · exact heq
  · exact absurd h50 (Nat.ne_of_lt hcnt)
  · exact absurd h50 (Nat.ne_of_lt hcnt)

/-- A falling edge is latched and nothing else. -/
theorem step_clock_low {s : State} {rest : List Event} (hi : s.inputs = .clock .low :: rest)
    (hf : s.fault = false) : step s = .next { s with inputs := rest, sclk := .low, out := {} } := by
  rw [step_of_event hi hf]
  show onClock .low (State.receive s (.clock .low) rest) = _
  have hfall : rising s.sclk .low = false := by simp [rising]
  rw [onClock, if_neg (by simp [hfall])]
  rfl

/-- `n` pulses that stay below the threshold count `n` edges. -/
theorem runSteps_clockPulses (n : Nat) {s : State} {rest : List Event} (hi : s.inputs = clockPulses n ++ rest)
    (hf : s.fault = false) (hcs : s.cs = false) (hlow : s.sclk = .low) (hcnt : s.sclkCnt.toNat + n ≤ 50) :
    ∃ out, runSteps (2 * n) s =
      .next { s with inputs := rest, sclkCnt := s.sclkCnt + BitVec.ofNat 6 n, out := out } := by
  induction n generalizing s with
  | zero =>
    obtain rfl : s.inputs = rest := hi
    exact ⟨s.out, by simp [runSteps_zero]⟩
  | succ n ih =>
    have hsucc := counter_succ_toNat (n := s.sclkCnt) (by omega)
    have hrise := step_clock_counts hi hf hcs hlow (by omega)
    have hfall := step_clock_low (rest := clockPulses n ++ rest)
      (s := { s with
        inputs := .clock .low :: (clockPulses n ++ rest), sclk := .high, sclkCnt := s.sclkCnt + 1#6, out := {} })
      rfl hf
    obtain ⟨out, hrun⟩ := ih
      (s := { s with inputs := clockPulses n ++ rest, sclk := .low, sclkCnt := s.sclkCnt + 1#6, out := {} })
      rfl hf hcs rfl (by simp only [hsucc]; omega)
    refine ⟨out, ?_⟩
    rw [show 2 * (n + 1) = 2 * n + 1 + 1 by omega, runSteps_next hrise]
    refine (runSteps_next hfall).trans (hrun.trans ?_)
    have hcount : s.sclkCnt + 1#6 + BitVec.ofNat 6 n = s.sclkCnt + BitVec.ofNat 6 (n + 1) := by
      rw [BitVec.add_assoc, BitVec.add_comm 1#6, BitVec.ofNat_add]
    rw [← hcount, ← hlow]

/-- Power-on with reset asserted and events pending. -/
def heldInReset (es : List Event) : State :=
  { State.reset with rst := true, inputs := es, out := { writes := [.cdone false] } }

/-- Reset is asserted, 51 rising edges come, reset is released. -/
def doneOverZeroEvents : List Event :=
  .reset true :: (clockPulses 50 ++ [.clock .high, .reset false])

theorem runSteps_doneOverZeroEvents :
    ∃ t, runSteps (1 + (2 * 50 + 2)) { State.reset with inputs := doneOverZeroEvents } = .next t ∧
      t.cdone = true ∧ t.sclkCnt = 0#6 := by
  have hheld : runSteps 1 { State.reset with inputs := doneOverZeroEvents } =
      .next (heldInReset (clockPulses 50 ++ [.clock .high, .reset false])) := rfl
  obtain ⟨out, hpulses⟩ := runSteps_clockPulses 50
    (s := heldInReset (clockPulses 50 ++ [.clock .high, .reset false])) rfl rfl rfl rfl (by decide)
  rw [runSteps_add hheld, runSteps_add hpulses]
  exact ⟨_, rfl, rfl, rfl⟩

/-- Refutes O39: the 51st edge under reset asserts DONE, and the release leaves it asserted over a counter of 0. -/
theorem not_doneImpliesCounterFull : ¬ Obligations.DoneImpliesCounterFull := by
  intro h
  obtain ⟨t, hrun, hdone, hcnt⟩ := runSteps_doneOverZeroEvents
  have hfull : t.sclkCnt = 51#6 := h doneOverZeroEvents _ t hrun hdone
  exact absurd (hcnt.symm.trans hfull) (by decide)

end Sys2Proof.Machine
end

