-- ==== Sys2Proof/Proofs/Noninterference.lean ====
section
/-!
PROOFS. Noninterference by a relation between states, for every relation at once: the gates of the step and of a
byte read a few fields only, so a relation that fixes these is kept by the step once every meaning keeps it.
-/
namespace Sys2Proof.Machine

/-- Related states stop alike under the meaning, or it answers related next states. -/
def Blind (R : State → State → Prop) (f : State → Host.Outcome State Fault Refusal) : Prop :=
  ∀ s t : State, R s t → OutcomeRel R (f s) (f t)

/-- The operation, which always answers, takes related states to related states. -/
def Preserves (R : State → State → Prop) (g : State → State) : Prop :=
  ∀ s t : State, R s t → R (g s) (g t)

/-- Related states agree on what the gates of the step and of a byte read, and the decoder (40_byte_dispatch.md R73,
R76, 60_exceptions.md R124). -/
def SameGates (R : State → State → Prop) : Prop :=
  ∀ s t : State, R s t →
    t.inputs = s.inputs ∧ t.fault = s.fault ∧ t.cs = s.cs ∧ t.cfg = s.cfg ∧ t.mode = s.mode

/-- A byte is dropped, rejected or decoded alike in related states. -/
theorem onByte_blind {R : State → State → Prop} (hgates : SameGates R)
    (hdrop : Preserves R (State.emitDiag .dataWhileDeselected)) (hexec : ∀ i, Blind R (exec i))
    (hreject : ∀ r b, Preserves R (State.rejected r b)) (b : Byte) : Blind R (onByte b) := by
  intro s t h
  obtain ⟨-, -, hcst, hcfg, hmode⟩ := hgates s t h
  by_cases hcs : s.cs = true
  · have hdt : decode t.cfg t.mode b = decode s.cfg s.mode b := by rw [hcfg, hmode]
    cases hd : decode s.cfg s.mode b with
    | ok i =>
      rw [onByte_of_decode hcs hd, onByte_of_decode (hcst.trans hcs) (hdt.trans hd)]
      exact hexec i s t h
    | error r =>
      rw [onByte_of_reject hcs hd, onByte_of_reject (hcst.trans hcs) (hdt.trans hd)]
      exact hreject r b s t h
  · rw [onByte, onByte, hcst, if_neg hcs, if_neg hcs]
    exact hdrop s t h

/-- Related states take the same event or none, and are faulted alike. -/
theorem step_blind {R : State → State → Prop} (hgates : SameGates R)
    (hreceive : ∀ e rest, Preserves R (fun s => State.receive s e rest)) (hhandle : ∀ e, Blind R (handle e)) :
    Blind R step := by
  intro s t h
  obtain ⟨hin, hfault, -⟩ := hgates s t h
  obtain ⟨hi, heq⟩ | ⟨e, rest, hi, hf, heq⟩ | ⟨e, rest, hi, hf, heq⟩ := step_cases s <;> rw [heq]
  · rw [step_of_no_event (hin.trans hi)]
    exact h
  · rw [step_of_fault (hin.trans hi) (hfault.trans hf)]
    exact hreceive e rest s t h
  · rw [step_of_event (hin.trans hi) (hfault.trans hf)]
    exact hhandle e _ _ (hreceive e rest s t h)

end Sys2Proof.Machine
end

