-- ==== Sys2Proof/Proofs/HeaderCapture.lean ====
section
/-!
PROOFS. The header capture (20_memory.md R45, R46): what a programming byte appends, and that what stands at and
above `hdr_len` influences nothing.
-/
namespace Sys2Proof.Machine

/-! Appending. -/

/-- The filled length after one more byte, while there is room. -/
theorem hdrLen_succ_toNat {n : BitVec 9} (h : n.toNat < Config.hdrCap) : (n + 1#9).toNat = n.toNat + 1 := by
  simp only [Config.hdrCap] at h
  simp only [BitVec.toNat_add, BitVec.toNat_ofNat]
  omega

/-- `PROGRAMMING_BYTE` is the append. -/
theorem exec_programmingByte (b : Byte) (s : State) :
    exec (.programmingByte b) s = .next (State.hdrAppend b s) := rfl

/-- Settles O18: the two cases of `HdrAppend`, and the read after its write. -/
theorem programmingByteCaptured : Obligations.ProgrammingByteCaptured := by
  intro b s
  rw [exec_programmingByte]
  obtain ⟨hroom, heq⟩ | ⟨hfull, heq⟩ := hdrAppend_cases b s <;> rw [heq]
  · exact ⟨fun _ => ⟨_, rfl, hdrLen_succ_toNat hroom, fun a => read_write .hdr s.hdr _ a b, rfl⟩,
      fun hfull => absurd hroom (Nat.not_lt.2 hfull)⟩
  · exact ⟨fun hroom => absurd hroom (Nat.not_lt.2 hfull), fun _ => rfl⟩

/-! Stale bytes: the meanings on two states with the same filled part of the capture. -/

/-- The two captures read the same below a length. -/
def SameFilled (n : Nat) (m m' : Memory) : Prop :=
  ∀ a, a < n → Memory.read .hdr m' a = Memory.read .hdr m a

/-- Two states that differ in stale header bytes are one state with two captures of the same filled part. -/
theorem exists_of_differInStaleHeader {s t : State} (h : differInStaleHeader s t) :
    ∃ m, SameFilled s.hdrLen.toNat s.hdr m ∧ t = { s with hdr := m } :=
  ⟨t.hdr, h.2, h.1⟩

/-- Captures with the same filled part have the same filled part after the same byte is appended to it. -/
theorem sameFilled_write {n : Nat} {m m' : Memory} (h : SameFilled n m m') (b : Byte) :
    SameFilled (n + 1) (Memory.write m n b) (Memory.write m' n b) := by
  intro a ha
  rw [read_write, read_write]
  split
  · rfl
  · exact h a (by omega)

/-- The classifier's input is the filled part. -/
theorem captured_of_sameFilled {s : State} {m : Memory} (h : SameFilled s.hdrLen.toNat s.hdr m) :
    State.captured { s with hdr := m } = State.captured s :=
  List.map_congr_left fun a ha => h a (List.mem_range.1 ha)

theorem sameGates_staleHeader : SameGates differInStaleHeader := by
  intro s t h
  obtain ⟨m, -, rfl⟩ := exists_of_differInStaleHeader h
  exact ⟨rfl, rfl, rfl, rfl, rfl⟩

theorem hdrAppend_preserves_staleHeader (b : Byte) : Preserves differInStaleHeader (State.hdrAppend b) := by
  intro s t h
  obtain ⟨m, hsame, rfl⟩ := exists_of_differInStaleHeader h
  unfold State.hdrAppend
  dsimp only
  split
  · rename_i hroom
    refine ⟨rfl, ?_⟩
    dsimp only
    rw [hdrLen_succ_toNat hroom]
    exact sameFilled_write hsame b
  · exact ⟨rfl, hsame⟩

theorem rejected_preserves_staleHeader (r : DecodeReject) (b : Byte) :
    Preserves differInStaleHeader (State.rejected r b) := by
  intro s t h
  obtain ⟨m, hsame, rfl⟩ := exists_of_differInStaleHeader h
  cases r with
  | unknownCommandSet => exact ⟨rfl, hsame⟩
  | sceneWithoutDrawScene =>
    unfold State.rejected State.reinvoke
    dsimp only
    split_ifs <;> exact ⟨rfl, hsame⟩

/-- Only `PROGRAMMING_BYTE` touches the capture or its length. -/
theorem exec_staleHeader_blind (i : Instr) : Blind differInStaleHeader (exec i) := by
  intro s t h
  obtain ⟨m, hsame, rfl⟩ := exists_of_differInStaleHeader h
  cases i with
  | programmingByte b =>
    rw [exec_programmingByte, exec_programmingByte]
    exact hdrAppend_preserves_staleHeader b s _ ⟨rfl, hsame⟩
  | paramByte b =>
    unfold exec execParamByte
    dsimp only
    split <;> exact ⟨rfl, hsame⟩
  | lineIndex c =>
    rw [exec_lineIndex, exec_lineIndex]
    exact ⟨rfl, hsame⟩
  | lineData b =>
    unfold exec execLineData State.fbWrite
    dsimp only
    cases rowClass s.row with
    | visible =>
      dsimp only
      split_ifs
      · exact ⟨rfl, hsame⟩
      · rfl
    | trigger | bottomPadding | topPadding => exact ⟨rfl, hsame⟩
  | null | setParameter | displayOff | displayOn | drawScene | unknown0 b | frameBegin | frameData | frameEnd
  | unknown1 b | sceneBlack | sceneSplash | sceneUpdate | sceneError | sceneUnknown id =>
    exact ⟨rfl, hsame⟩

theorem onChipSelect_preserves_staleHeader (a : Bool) : Preserves differInStaleHeader (onChipSelect a) := by
  intro s t h
  obtain ⟨m, hsame, rfl⟩ := exists_of_differInStaleHeader h
  unfold onChipSelect
  dsimp only
  split_ifs <;> exact ⟨rfl, hsame⟩

/-- The exit from Programming reads the capture through the classifier only. -/
theorem leaveProgramming_staleHeader_blind : Blind differInStaleHeader leaveProgramming := by
  intro s t h
  obtain ⟨m, hsame, rfl⟩ := exists_of_differInStaleHeader h
  have hcaptured : State.captured (State.complete true { s with hdr := m }) =
      State.captured (State.complete true s) := captured_of_sameFilled (s := State.complete true s) hsame
  unfold leaveProgramming
  simp only [classifyHeader_eq, hcaptured]
  split
  · exact ⟨rfl, hsame⟩
  · rfl

theorem onClock_staleHeader_blind (l : Level) : Blind differInStaleHeader (onClock l) := by
  intro s t h
  obtain ⟨m, hsame, rfl⟩ := exists_of_differInStaleHeader h
  unfold onClock
  dsimp only
  split_ifs
  · exact leaveProgramming_staleHeader_blind _ _ ⟨rfl, hsame⟩
  all_goals exact ⟨rfl, hsame⟩

/-- The reset release empties the capture, so that all its bytes are stale. -/
theorem resetReleased_preserves_staleHeader : Preserves differInStaleHeader resetReleased := by
  intro s t h
  obtain ⟨m, -, rfl⟩ := exists_of_differInStaleHeader h
  exact ⟨rfl, fun a ha => absurd ha (Nat.not_lt_zero a)⟩

theorem onReset_preserves_staleHeader (r : Bool) : Preserves differInStaleHeader (onReset r) := by
  intro s t h
  obtain ⟨m, hsame, rfl⟩ := exists_of_differInStaleHeader h
  unfold onReset
  dsimp only
  split_ifs
  · exact ⟨rfl, hsame⟩
  · exact ⟨rfl, hsame⟩
  · exact resetReleased_preserves_staleHeader s _ ⟨rfl, hsame⟩

theorem onRender_preserves_staleHeader : Preserves differInStaleHeader onRender := by
  intro s t h
  obtain ⟨m, hsame, rfl⟩ := exists_of_differInStaleHeader h
  unfold onRender
  dsimp only
  split <;> exact ⟨rfl, hsame⟩

theorem handle_staleHeader_blind (e : Event) : Blind differInStaleHeader (handle e) := by
  cases e with
  | byte b =>
    refine onByte_blind sameGates_staleHeader (fun s t h => ?_) exec_staleHeader_blind
      rejected_preserves_staleHeader b
    obtain ⟨m, hsame, rfl⟩ := exists_of_differInStaleHeader h
    exact ⟨rfl, hsame⟩
  | chipSelect a => exact onChipSelect_preserves_staleHeader a
  | clock l => exact onClock_staleHeader_blind l
  | reset r => exact onReset_preserves_staleHeader r
  | render => exact onRender_preserves_staleHeader

theorem receive_preserves_staleHeader (e : Event) (rest : List Event) :
    Preserves differInStaleHeader (fun s => State.receive s e rest) := by
  intro s t h
  obtain ⟨m, hsame, rfl⟩ := exists_of_differInStaleHeader h
  exact ⟨rfl, hsame⟩

/-- Settles O55: the append extends the filled part, the release empties it, and the classifier reads no more. -/
theorem staleHeaderUnobservable : Obligations.StaleHeaderUnobservable :=
  step_blind sameGates_staleHeader receive_preserves_staleHeader handle_staleHeader_blind

end Sys2Proof.Machine
end

