-- ==== Sys2Proof/Proofs/Framebuffer.lean ====
section
/-!
PROOFS. The framebuffer is read by a `Render` pass only (20_memory.md R47, 45_pixel_mapper_render.md R119, R120), and
written in range only (20_memory.md R44).
-/
namespace Sys2Proof.Machine

/-- Settles O24: of a data byte's cases, the visible row with the column out of range is the one that stops. -/
theorem visibleByteOutOfRangeStops : Obligations.VisibleByteOutOfRangeStops := by
  intro b s hlow hhigh hcol
  show execLineData b s = _
  obtain ⟨hrow, -⟩ | ⟨hrow, -⟩ | ⟨-, hlt, -⟩ | ⟨-, -, heq⟩ := execLineData_cases b s
  · omega
  · omega
  · omega
  · exact heq

/-! The meanings on two states that differ in the framebuffer and in the colours of the last pass. -/

theorem exists_of_differInFramebuffer {s t : State} (h : differInFramebuffer s t) :
    ∃ fb pass, pass.map List.length = s.out.pass.map List.length ∧
      t = { s with fb := fb, out := { s.out with pass := pass } } :=
  ⟨t.fb, t.out.pass, h.2, h.1⟩

theorem sameGates_framebuffer : SameGates differInFramebuffer := by
  intro s t h
  obtain ⟨fb, pass, -, rfl⟩ := exists_of_differInFramebuffer h
  exact ⟨rfl, rfl, rfl, rfl, rfl⟩

theorem rejected_preserves_framebuffer (r : DecodeReject) (b : Byte) :
    Preserves differInFramebuffer (State.rejected r b) := by
  intro s t h
  obtain ⟨fb, pass, hlen, rfl⟩ := exists_of_differInFramebuffer h
  cases r with
  | unknownCommandSet => exact ⟨rfl, hlen⟩
  | sceneWithoutDrawScene =>
    unfold State.rejected State.reinvoke
    dsimp only
    split_ifs <;> exact ⟨rfl, hlen⟩

/-- A scene or a data byte may write the framebuffer, but what else it does is the same whatever stands there. -/
theorem exec_framebuffer_blind (i : Instr) : Blind differInFramebuffer (exec i) := by
  intro s t h
  obtain ⟨fb, pass, hlen, rfl⟩ := exists_of_differInFramebuffer h
  cases i with
  | programmingByte b =>
    rw [exec_programmingByte, exec_programmingByte]
    unfold State.hdrAppend
    dsimp only
    split <;> exact ⟨rfl, hlen⟩
  | paramByte b =>
    unfold exec execParamByte
    dsimp only
    split <;> exact ⟨rfl, hlen⟩
  | lineIndex c =>
    rw [exec_lineIndex, exec_lineIndex]
    exact ⟨rfl, hlen⟩
  | lineData b =>
    unfold exec execLineData State.fbWrite
    dsimp only
    cases rowClass s.row with
    | visible =>
      dsimp only
      split_ifs
      · exact ⟨rfl, hlen⟩
      · rfl
    | trigger | bottomPadding | topPadding => exact ⟨rfl, hlen⟩
  | null | setParameter | displayOff | displayOn | drawScene | unknown0 b | frameBegin | frameData | frameEnd
  | unknown1 b | sceneBlack | sceneSplash | sceneUpdate | sceneError | sceneUnknown id => exact ⟨rfl, hlen⟩

theorem onChipSelect_preserves_framebuffer (a : Bool) : Preserves differInFramebuffer (onChipSelect a) := by
  intro s t h
  obtain ⟨fb, pass, hlen, rfl⟩ := exists_of_differInFramebuffer h
  unfold onChipSelect
  dsimp only
  split_ifs <;> exact ⟨rfl, hlen⟩

theorem leaveProgramming_framebuffer_blind : Blind differInFramebuffer leaveProgramming := by
  intro s t h
  obtain ⟨fb, pass, hlen, rfl⟩ := exists_of_differInFramebuffer h
  unfold leaveProgramming
  simp only [classifyHeader_eq]
  split
  · exact ⟨rfl, hlen⟩
  · rfl

theorem onClock_framebuffer_blind (l : Level) : Blind differInFramebuffer (onClock l) := by
  intro s t h
  obtain ⟨fb, pass, hlen, rfl⟩ := exists_of_differInFramebuffer h
  unfold onClock
  dsimp only
  split_ifs
  · exact leaveProgramming_framebuffer_blind _ _ ⟨rfl, hlen⟩
  all_goals exact ⟨rfl, hlen⟩

theorem onReset_preserves_framebuffer (r : Bool) : Preserves differInFramebuffer (onReset r) := by
  intro s t h
  obtain ⟨fb, pass, hlen, rfl⟩ := exists_of_differInFramebuffer h
  unfold onReset
  dsimp only
  split_ifs <;> exact ⟨rfl, hlen⟩

theorem renderPass_length (fb : Memory) : (renderPass fb).length = Config.fbSize := by
  simp [renderPass, Space.size]

/-- The one read of the framebuffer: a pass of as many colours as there are cells, whatever they hold. -/
theorem onRender_preserves_framebuffer : Preserves differInFramebuffer onRender := by
  intro s t h
  obtain ⟨fb, pass, hlen, rfl⟩ := exists_of_differInFramebuffer h
  unfold onRender
  dsimp only
  split
  · have hpass : (renderPass fb).length = (renderPass s.fb).length :=
      (renderPass_length fb).trans (renderPass_length s.fb).symm
    exact ⟨rfl, congrArg some hpass⟩
  · exact ⟨rfl, hlen⟩

theorem handle_framebuffer_blind (e : Event) : Blind differInFramebuffer (handle e) := by
  cases e with
  | byte b =>
    refine onByte_blind sameGates_framebuffer (fun s t h => ?_) exec_framebuffer_blind
      rejected_preserves_framebuffer b
    obtain ⟨fb, pass, hlen, rfl⟩ := exists_of_differInFramebuffer h
    exact ⟨rfl, hlen⟩
  | chipSelect a => exact onChipSelect_preserves_framebuffer a
  | clock l => exact onClock_framebuffer_blind l
  | reset r => exact onReset_preserves_framebuffer r
  | render => exact onRender_preserves_framebuffer

/-- Taking an event forgets the last pass. -/
theorem receive_preserves_framebuffer (e : Event) (rest : List Event) :
    Preserves differInFramebuffer (fun s => State.receive s e rest) := by
  intro s t h
  obtain ⟨fb, pass, -, rfl⟩ := exists_of_differInFramebuffer h
  exact ⟨rfl, rfl⟩

theorem step_framebuffer_blind : Blind differInFramebuffer step :=
  step_blind sameGates_framebuffer receive_preserves_framebuffer handle_framebuffer_blind

/-! Which events put out a pass. -/

theorem exec_pass {i : Instr} {s t : State} (h : exec i s = .next t) : t.out.pass = s.out.pass := by
  cases i with
  | programmingByte b =>
    rw [exec_programmingByte, hdrAppend_frame] at h
    cases h
    rfl
  | paramByte b =>
    change execParamByte b s = _ at h
    obtain ⟨-, heq⟩ | ⟨-, heq⟩ := execParamByte_cases b s <;> rw [heq] at h <;> cases h <;> rfl
  | lineIndex c =>
    rw [exec_lineIndex] at h
    cases h
    rfl
  | lineData b =>
    change execLineData b s = _ at h
    obtain ⟨-, heq⟩ | ⟨-, heq⟩ | ⟨-, -, heq⟩ | ⟨-, -, heq⟩ := execLineData_cases b s <;> rw [heq] at h <;>
      cases h <;> rfl
  | null | setParameter | displayOff | displayOn | drawScene | unknown0 b | frameBegin | frameData | frameEnd
  | unknown1 b | sceneBlack | sceneSplash | sceneUpdate | sceneError | sceneUnknown id =>
    cases h
    rfl

theorem onByte_pass {b : Byte} {s t : State} (h : onByte b s = .next t) : t.out.pass = s.out.pass := by
  obtain ⟨-, heq⟩ | ⟨i, -, -, heq⟩ | ⟨-, -, heq⟩ | ⟨-, -, heq⟩ := onByte_cases b s <;> rw [heq] at h
  · cases h
    rfl
  · exact exec_pass h
  · cases h
    rfl
  · cases h
    obtain heq' | heq' | heq' := reinvoke_cases b s <;> rw [heq'] <;> rfl

theorem onChipSelect_pass (a : Bool) (s : State) : (onChipSelect a s).out.pass = s.out.pass := by
  obtain ⟨-, heq⟩ | ⟨-, -, -, heq⟩ | ⟨-, -, heq⟩ := onChipSelect_cases a s
  · rw [heq]
  · rw [heq]
    rfl
  · rw [heq]

theorem leaveProgramming_pass {s t : State} (h : leaveProgramming s = .next t) : t.out.pass = s.out.pass := by
  obtain ⟨-, heq⟩ | ⟨-, heq⟩ := leaveProgramming_cases s <;> rw [heq] at h
  · rw [classifyHeader_eq] at h
    cases h
    rfl
  · cases h

theorem onClock_pass {l : Level} {s t : State} (h : onClock l s = .next t) : t.out.pass = s.out.pass := by
  obtain ⟨-, heq⟩ | ⟨-, heq⟩ | ⟨-, -, heq⟩ | ⟨-, -, heq⟩ := onClock_cases l s <;> rw [heq] at h
  · cases h
    rfl
  · cases h
    rfl
  · cases h
    rfl
  · exact (leaveProgramming_pass h).trans rfl

theorem onReset_pass (r : Bool) (s : State) : (onReset r s).out.pass = s.out.pass := by
  obtain ⟨-, heq⟩ | ⟨-, -, heq⟩ | ⟨-, -, heq⟩ := onReset_cases r s <;> rw [heq] <;> rfl

/-- An event leaves the pass of the outputs as it is, or is a `Render` that finds `redraw` set. -/
theorem handle_pass {e : Event} {s t : State} (h : handle e s = .next t) :
    t.out.pass = s.out.pass ∨ e = .render ∧ s.redraw = true := by
  cases e with
  | byte b => exact .inl (onByte_pass h)
  | chipSelect a =>
    cases h
    exact .inl (onChipSelect_pass a s)
  | clock l => exact .inl (onClock_pass h)
  | reset r =>
    cases h
    exact .inl (onReset_pass r s)
  | render =>
    cases h
    obtain ⟨-, heq⟩ | ⟨hredraw, -⟩ := onRender_cases s
    · exact .inl (by rw [heq])
    · exact .inr ⟨rfl, hredraw⟩

/-- The outputs of an event start without a pass, so a step that puts one out ran the `Render` that makes it. -/
theorem render_of_step_pass {s t : State} {e : Event} {rest : List Event} (hi : s.inputs = e :: rest)
    (h : step s = .next t) (hpass : t.out.pass ≠ none) : e = .render ∧ s.redraw = true ∧ s.fault = false := by
  cases hf : s.fault with
  | true =>
    rw [step_of_fault hi hf] at h
    cases h
    exact absurd rfl hpass
  | false =>
    rw [step_of_event hi hf] at h
    obtain hkept | ⟨he, hredraw⟩ := handle_pass h
    · exact absurd hkept hpass
    · exact ⟨he, hredraw, rfl⟩

/-- Settles O57: no meaning but `Render` reads the framebuffer, and only `Render` makes a pass. -/
theorem framebufferUnread : Obligations.FramebufferUnread :=
  ⟨step_framebuffer_blind, fun _ _ _ _ => render_of_step_pass⟩

end Sys2Proof.Machine
end

