-- ==== Sys2Proof/Proofs/Encoding.lean ====
section
/-!
PROOFS. Decode and encode agree (30_encoding.md R59 to R64, 40_byte_dispatch.md R76). The mode chooses a vocabulary;
within one, the distinctness of the opcodes (00_scope.md R7) makes each byte the byte of one instruction.
-/
namespace Sys2Proof.Machine

/-! Modes, what fits them, and what is well formed. -/

/-- Every mode is the mode of a state, so the decoder's laws for a state's mode are laws for every mode. -/
theorem exists_mode_eq (m : DecodeMode) : ∃ s : State, s.mode = m :=
  ⟨{ State.reset with state := m.state, cmdset := m.cmdset, cmd := m.cmd }, rfl⟩

theorem fits_iff {p : Params} {m : DecodeMode} {i : Instr} :
    i.fits p m = true ↔
      m.state = i.arrivalState ∧ (∀ v, i.vocabulary = some v → m.cmdset = v.toCmdSet) ∧
      (i.arrivalState = .acceptingSceneByte → decodeSet0 p m.cmd = .drawScene) := by
  by_cases hs : i.arrivalState = .acceptingSceneByte <;> cases hv : i.vocabulary <;>
    simp [Instr.fits, hs, hv, and_assoc]

theorem params_wf_iff {p : Params} :
    p.wf = true ↔ p.set0Opcodes.Nodup ∧ p.set1Opcodes.Nodup ∧ p.sceneIds.Nodup := by
  simp [Params.wf, and_assoc]

theorem unknown0_wf_iff {p : Params} {b : Byte} : (Instr.unknown0 b).wf p = true ↔ b ∉ p.set0Opcodes := by
  simp [Instr.wf]

theorem unknown1_wf_iff {p : Params} {b : Byte} : (Instr.unknown1 b).wf p = true ↔ b ∉ p.set1Opcodes := by
  simp [Instr.wf]

theorem sceneUnknown_wf_iff {p : Params} {b : Byte} : (Instr.sceneUnknown b).wf p = true ↔ b ∉ p.sceneIds := by
  simp [Instr.wf]

/-! From a byte to its instruction and back: each vocabulary reads a byte as an instruction of its own. -/

theorem encode_decodeSet0 (p : Params) (b : Byte) :
    encode p (decodeSet0 p b) = b ∧ (decodeSet0 p b).wf p = true ∧
      (decodeSet0 p b).arrivalState = .acceptingCommand ∧ (decodeSet0 p b).vocabulary = some .set0 := by
  obtain ⟨hb, heq⟩ | ⟨hb, heq⟩ | ⟨hb, heq⟩ | ⟨hb, heq⟩ | ⟨hb, heq⟩ | ⟨hb, heq⟩ := decodeSet0_cases p b <;> rw [heq]
  case inr.inr.inr.inr.inr => exact ⟨rfl, unknown0_wf_iff.2 hb, rfl, rfl⟩
  all_goals exact ⟨hb.symm, rfl, rfl, rfl⟩

theorem encode_decodeSet1 (p : Params) (b : Byte) :
    encode p (decodeSet1 p b) = b ∧ (decodeSet1 p b).wf p = true ∧
      (decodeSet1 p b).arrivalState = .acceptingCommand ∧ (decodeSet1 p b).vocabulary = some .set1 := by
  obtain ⟨hb, heq⟩ | ⟨hb, heq⟩ | ⟨hb, heq⟩ | ⟨hb, heq⟩ := decodeSet1_cases p b <;> rw [heq]
  case inr.inr.inr => exact ⟨rfl, unknown1_wf_iff.2 hb, rfl, rfl⟩
  all_goals exact ⟨hb.symm, rfl, rfl, rfl⟩

theorem encode_decodeScene (p : Params) (b : Byte) :
    encode p (decodeScene p b) = b ∧ (decodeScene p b).wf p = true ∧
      (decodeScene p b).arrivalState = .acceptingSceneByte ∧ (decodeScene p b).vocabulary = none := by
  obtain ⟨hb, heq⟩ | ⟨hb, heq⟩ | ⟨hb, heq⟩ | ⟨hb, heq⟩ | ⟨hb, heq⟩ := decodeScene_cases p b <;> rw [heq]
  case inr.inr.inr.inr => exact ⟨rfl, sceneUnknown_wf_iff.2 hb, rfl, rfl⟩
  all_goals exact ⟨hb.symm, rfl, rfl, rfl⟩

/-- Settles O2: the mode chooses a vocabulary, and that vocabulary gives the byte back. -/
theorem encodeOfDecode : Obligations.EncodeOfDecode := by
  intro p m b i h
  obtain ⟨s, rfl⟩ := exists_mode_eq m
  cases hs : s.state with
  | programming =>
    cases (decode_programming p b hs).symm.trans h
    exact ⟨rfl, rfl, fits_iff.2 ⟨hs, nofun, nofun⟩⟩
  | acceptingCommand =>
    cases hc : s.cmdset with
    | unknown => cases (decode_fatal p b hs hc).symm.trans h
    | set0 =>
      cases (decode_set0 p b hs hc).symm.trans h
      obtain ⟨hbyte, hwf, harr, hvoc⟩ := encode_decodeSet0 p b
      exact ⟨hbyte, hwf, fits_iff.2 (by simp [State.mode, hs, hc, harr, hvoc, Vocabulary.toCmdSet])⟩
    | set1 =>
      cases (decode_set1 p b hs hc).symm.trans h
      obtain ⟨hbyte, hwf, harr, hvoc⟩ := encode_decodeSet1 p b
      exact ⟨hbyte, hwf, fits_iff.2 (by simp [State.mode, hs, hc, harr, hvoc, Vocabulary.toCmdSet])⟩
  | acceptingParameter =>
    cases (decode_parameter p b hs).symm.trans h
    exact ⟨rfl, rfl, fits_iff.2 ⟨hs, nofun, nofun⟩⟩
  | acceptingSceneByte =>
    by_cases hcmd : decodeSet0 p s.cmd = .drawScene
    · cases (decode_scene p b hs hcmd).symm.trans h
      obtain ⟨hbyte, hwf, harr, hvoc⟩ := encode_decodeScene p b
      exact ⟨hbyte, hwf, fits_iff.2 (by simp [State.mode, hs, hcmd, harr, hvoc])⟩
    · cases (decode_scene_rejected p b hs hcmd).symm.trans h
  | acceptingLineNumber =>
    cases (decode_lineNumber p b hs).symm.trans h
    exact ⟨rfl, rfl, fits_iff.2 ⟨hs, nofun, nofun⟩⟩
  | acceptingData =>
    cases (decode_data p b hs).symm.trans h
    exact ⟨rfl, rfl, fits_iff.2 ⟨hs, nofun, nofun⟩⟩

/-! From an instruction to its byte and back: an opcode is none of the opcodes tested before it. -/

theorem decodeSet0_encode {p : Params} (hp : p.wf = true) {i : Instr} (hi : i.wf p = true)
    (hv : i.vocabulary = some .set0) : decodeSet0 p (encode p i) = i := by
  obtain ⟨hdistinct, -, -⟩ := params_wf_iff.1 hp
  simp only [Params.set0Opcodes, List.nodup_cons, List.mem_cons, not_or] at hdistinct
  obtain ⟨⟨h₀₁, h₀₂, h₀₃, -⟩, ⟨h₁₂, h₁₃, -⟩, ⟨h₂₃, -⟩, -⟩ := hdistinct
  cases i with
  | null => exact if_pos rfl
  | setParameter => simp [encode, decodeSet0, Ne.symm h₀₁]
  | displayOff => simp [encode, decodeSet0, Ne.symm h₀₂, Ne.symm h₁₂]
  | displayOn => simp [encode, decodeSet0, Ne.symm h₀₃, Ne.symm h₁₃, Ne.symm h₂₃]
  | drawScene => exact decodeSet0_drawScene hp
  | unknown0 b =>
    have hb := unknown0_wf_iff.1 hi
    simp only [Params.set0Opcodes, List.mem_cons, List.not_mem_nil, or_false, not_or] at hb
    simp [encode, decodeSet0, hb]
  | frameBegin | frameData | frameEnd | unknown1 b | sceneBlack | sceneSplash | sceneUpdate | sceneError
  | sceneUnknown b | programmingByte b | paramByte b | lineIndex b | lineData b => cases hv

theorem decodeSet1_encode {p : Params} (hp : p.wf = true) {i : Instr} (hi : i.wf p = true)
    (hv : i.vocabulary = some .set1) : decodeSet1 p (encode p i) = i := by
  obtain ⟨-, hdistinct, -⟩ := params_wf_iff.1 hp
  simp only [Params.set1Opcodes, List.nodup_cons, List.mem_cons, not_or] at hdistinct
  obtain ⟨⟨h₀₁, h₀₂, -⟩, ⟨h₁₂, -⟩, -⟩ := hdistinct
  cases i with
  | frameBegin => exact if_pos rfl
  | frameData => simp [encode, decodeSet1, Ne.symm h₀₁]
  | frameEnd => simp [encode, decodeSet1, Ne.symm h₀₂, Ne.symm h₁₂]
  | unknown1 b =>
    have hb := unknown1_wf_iff.1 hi
    simp only [Params.set1Opcodes, List.mem_cons, List.not_mem_nil, or_false, not_or] at hb
    simp [encode, decodeSet1, hb]
  | null | setParameter | displayOff | displayOn | drawScene | unknown0 b | sceneBlack | sceneSplash | sceneUpdate
  | sceneError | sceneUnknown b | programmingByte b | paramByte b | lineIndex b | lineData b => cases hv

theorem decodeScene_encode {p : Params} (hp : p.wf = true) {i : Instr} (hi : i.wf p = true)
    (hs : i.arrivalState = .acceptingSceneByte) : decodeScene p (encode p i) = i := by
  obtain ⟨-, -, hdistinct⟩ := params_wf_iff.1 hp
  simp only [Params.sceneIds, List.nodup_cons, List.mem_cons, not_or] at hdistinct
  obtain ⟨⟨h₀₁, h₀₂, h₀₃, -⟩, ⟨h₁₂, h₁₃, -⟩, ⟨h₂₃, -⟩, -⟩ := hdistinct
  cases i with
  | sceneBlack => exact if_pos rfl
  | sceneSplash => simp [encode, decodeScene, Ne.symm h₀₁]
  | sceneUpdate => simp [encode, decodeScene, Ne.symm h₀₂, Ne.symm h₁₂]
  | sceneError => simp [encode, decodeScene, Ne.symm h₀₃, Ne.symm h₁₃, Ne.symm h₂₃]
  | sceneUnknown b =>
    have hb := sceneUnknown_wf_iff.1 hi
    simp only [Params.sceneIds, List.mem_cons, List.not_mem_nil, or_false, not_or] at hb
    simp [encode, decodeScene, hb]
  | null | setParameter | displayOff | displayOn | drawScene | unknown0 b | frameBegin | frameData | frameEnd
  | unknown1 b | programmingByte b | paramByte b | lineIndex b | lineData b => cases hs

/-- Settles O1: the mode that an instruction fits chooses its vocabulary, which reads its byte as it. -/
theorem decodeOfEncode : Obligations.DecodeOfEncode := by
  intro p m i hp hi hfit
  obtain ⟨s, rfl⟩ := exists_mode_eq m
  obtain ⟨hstate, hset, hcmd⟩ := fits_iff.1 hfit
  cases i with
  | null | setParameter | displayOff | displayOn | drawScene | unknown0 b =>
    rw [decode_set0 p _ hstate (hset _ rfl), decodeSet0_encode hp hi rfl]
  | frameBegin | frameData | frameEnd | unknown1 b =>
    rw [decode_set1 p _ hstate (hset _ rfl), decodeSet1_encode hp hi rfl]
  | sceneBlack | sceneSplash | sceneUpdate | sceneError | sceneUnknown b =>
    rw [decode_scene p _ hstate (hcmd rfl), decodeScene_encode hp hi rfl]
  | programmingByte b => exact decode_programming p b hstate
  | paramByte b => exact decode_parameter p b hstate
  | lineIndex b => exact decode_lineNumber p b hstate
  | lineData b => exact decode_data p b hstate

/-- Settles O4, by evaluating the decoder on each byte. -/
theorem defaultWordsDecode : Obligations.DefaultWordsDecode := ⟨rfl, rfl, rfl, rfl, rfl⟩

end Sys2Proof.Machine
end

/-!
PROOFS. The dispatch of a byte (40_byte_dispatch.md sections 1, 4 and 5): the two gates and the row of the current
state, the bytes that decode to no instruction, and the bytes of a parameter.
-/
namespace Sys2Proof.Machine

/-! The step of a byte: past both gates, at the chip-select gate, and where it decodes to no instruction. -/

/-- Past both gates the step of a byte is the meaning of its instruction (40_byte_dispatch.md R73, R76). -/
theorem step_of_decode {s : State} {b : Byte} {rest : List Event} {i : Instr} (hi : s.inputs = .byte b :: rest)
    (hf : s.fault = false) (hcs : s.cs = true) (hd : decode s.cfg s.mode b = .ok i) :
    step s = exec i (State.receive s (.byte b) rest) :=
  (step_of_event hi hf).trans (onByte_of_decode hcs hd)

/-- Settles O5: both gates let the byte pass, and the decoder names the instruction. -/
theorem stepRunsDecodedInstruction : Obligations.StepRunsDecodedInstruction :=
  fun _ _ _ _ hi hf hcs hd => step_of_decode hi hf hcs hd

/-- The chip-select gate (40_byte_dispatch.md R74). -/
theorem onByte_of_deselected {s : State} (b : Byte) (hcs : s.cs = false) :
    onByte b s = .next (State.emitDiag .dataWhileDeselected s) := by
  simp [onByte, hcs]

/-- Settles O6: the fault gate lets the byte pass, the chip-select gate does not. -/
theorem deselectedByteDropped : Obligations.DeselectedByteDropped := by
  intro s b rest hi hf hcs
  rw [step_of_event hi hf]
  exact onByte_of_deselected b hcs

/-- Settles O8: both gates let the byte pass, and the decoder rejects it with the fatal condition. -/
theorem unknownCommandSetIsFatal : Obligations.UnknownCommandSetIsFatal := by
  intro s b rest hi hf hcs hst hset
  rw [step_of_event hi hf]
  exact onByte_of_reject (s := State.receive s (.byte b) rest) hcs (decode_fatal s.cfg b hst hset)

/-! Which bytes decode to no instruction: what the decoder reads of a state. -/

@[simp] theorem mode_state (s : State) : s.mode.state = s.state := rfl
@[simp] theorem mode_cmdset (s : State) : s.mode.cmdset = s.cmdset := rfl
@[simp] theorem mode_cmd (s : State) : s.mode.cmd = s.cmd := rfl

/-- Settles O3: of the six protocol states one reads the command set and one the pending command, and only these
two can reject a byte. -/
theorem decoderRejectsOnly : Obligations.DecoderRejectsOnly := by
  intro p m b
  obtain ⟨s, rfl⟩ := exists_mode_eq m
  cases hs : s.state with
  | programming => simp [decode_programming p b hs, hs]
  | acceptingCommand =>
    cases hc : s.cmdset with
    | unknown => simp [decode_fatal p b hs hc, hs, hc]
    | set0 => simp [decode_set0 p b hs hc, hs, hc]
    | set1 => simp [decode_set1 p b hs hc, hs, hc]
  | acceptingParameter => simp [decode_parameter p b hs, hs]
  | acceptingSceneByte =>
    by_cases hcmd : decodeSet0 p s.cmd = .drawScene
    · simp [decode_scene p b hs hcmd, hs, hcmd]
    · simp [decode_scene_rejected p b hs hcmd, hs, hcmd]
  | acceptingLineNumber => simp [decode_lineNumber p b hs, hs]
  | acceptingData => simp [decode_data p b hs, hs]

/-! The lanes of the parameter (10_state.md R23). -/

/-- A byte inserted in a lane is what the lane reads; the other lanes read as before (decision D14). -/
theorem lane_setLane (p : BitVec 32) (k j : BitVec 2) (b : Byte) :
    lane (setLane p k b) j = if j = k then b else lane p j := by
  refine BitVec.eq_of_getLsbD_eq fun i hi => ?_
  have hbit : 8 * j.toNat + i < 32 := by omega
  rw [lane, BitVec.getLsbD_extractLsb', getLsbD_setLane p k b _ hbit]
  by_cases hjk : j = k
  · subst hjk
    simp [hi]
  · have hne : j.toNat ≠ k.toNat := mt BitVec.eq_of_toNat_eq hjk
    have hout : ¬ (8 * k.toNat ≤ 8 * j.toNat + i ∧ 8 * j.toNat + i < 8 * k.toNat + 8) := by omega
    simp [hi, hjk, hout, lane]

/-- The parameter is the little-endian number of its four lanes (30_encoding.md R65). -/
theorem toNat_eq_lanes (p : BitVec 32) :
    p.toNat = (lane p 0#2).toNat + 256 * (lane p 1#2).toNat + 65536 * (lane p 2#2).toNat +
      16777216 * (lane p 3#2).toNat := by
  have hp := p.isLt
  simp only [lane, BitVec.extractLsb'_toNat, BitVec.toNat_ofNat, Nat.shiftRight_eq_div_pow,
    Nat.reducePow, Nat.reduceMod, Nat.reduceMul]
  omega

/-! The bytes of a parameter. -/

/-- Settles O19: the byte goes to its lane, and the offset decides between completion and advance. -/
theorem parameterByteFillsLane : Obligations.ParameterByteFillsLane := by
  intro b s
  have hsame : lane (setLane s.param s.paramOff b) s.paramOff = b := by simp [lane_setLane]
  have hother : ∀ k, k ≠ s.paramOff → lane (setLane s.param s.paramOff b) k = lane s.param k :=
    fun k hk => by simp [lane_setLane, hk]
  obtain ⟨hoff, heq⟩ | ⟨hoff, heq⟩ := execParamByte_cases b s
  · exact ⟨_, heq, hsame, hother, by rw [if_pos hoff]; rfl⟩
  · exact ⟨_, heq, hsame, hother, by rw [if_neg hoff]⟩

/-- A parameter byte below the last lane fills its lane and advances the offset. -/
theorem step_paramByte_advance {s : State} {b : Byte} {rest : List Event} {k : BitVec 2}
    (hi : s.inputs = .byte b :: rest) (hf : s.fault = false) (hcs : s.cs = true)
    (hst : s.state = .acceptingParameter) (hoff : s.paramOff = k) (hk : k ≠ 3#2) :
    step s = .next { s with
      inputs := rest, param := setLane s.param k b, paramOff := k + 1#2
      out := { miso := some s.cfg.misoPlaceholder } } := by
  subst hoff
  rw [step_of_decode hi hf hcs (decode_parameter s.cfg b hst)]
  obtain ⟨hlast, -⟩ | ⟨-, heq⟩ := execParamByte_cases b (State.receive s (.byte b) rest)
  · exact absurd hlast hk
  · exact heq

/-- The parameter byte of the last lane fills it and completes. -/
theorem step_paramByte_last {s : State} {b : Byte} {rest : List Event}
    (hi : s.inputs = .byte b :: rest) (hf : s.fault = false) (hcs : s.cs = true)
    (hst : s.state = .acceptingParameter) (hoff : s.paramOff = 3#2) :
    step s = .next { s with
      inputs := rest, param := setLane s.param 3#2 b, paramOff := 0#2, state := .acceptingCommand, intn := .low
      out := { miso := some s.cfg.misoPlaceholder, writes := [.intn .low] } } := by
  rw [step_of_decode hi hf hcs (decode_parameter s.cfg b hst), ← hoff]
  obtain ⟨-, heq⟩ | ⟨hlast, -⟩ := execParamByte_cases b (State.receive s (.byte b) rest)
  · exact heq
  · exact absurd hoff hlast

/-- The parameter after its four lanes are filled, whatever it was. -/
theorem toNat_setLanes (p : BitVec 32) (p0 p1 p2 p3 : Byte) :
    (setLane (setLane (setLane (setLane p 0#2 p0) 1#2 p1) 2#2 p2) 3#2 p3).toNat =
      p0.toNat + 256 * p1.toNat + 65536 * p2.toNat + 16777216 * p3.toNat := by
  rw [toNat_eq_lanes]
  simp [lane_setLane]

/-- Settles O20: three bytes advance through the lanes, the fourth completes, and all four lanes are new. -/
theorem fourBytesAssembleParameter : Obligations.FourBytesAssembleParameter := by
  intro s p0 p1 p2 p3 rest hi hf hcs hst hoff
  have hrun : runSteps 4 s = _ :=
    Eq.trans (runSteps_next (step_paramByte_advance hi hf hcs hst hoff (by decide))) <|
    Eq.trans (runSteps_next (step_paramByte_advance (k := 1#2) rfl hf hcs hst rfl (by decide))) <|
    Eq.trans (runSteps_next (step_paramByte_advance (k := 2#2) rfl hf hcs hst rfl (by decide))) <|
    runSteps_next (step_paramByte_last rfl hf hcs hst rfl)
  exact ⟨_, hrun, toNat_setLanes s.param p0 p1 p2 p3, rfl⟩

end Sys2Proof.Machine

/-!
PROOFS. The commands of the boot command set (41_set0_commands.md sections 2 and 3) and the Set1 bytes with the same
effect: command bytes that complete at once, command bytes that wait for an operand, and the scene bytes.
-/
namespace Sys2Proof.Machine

/-! Command bytes: accepted and then completed, reported or left waiting. -/

/-- A command that is accepted and completed with nothing between makes the zero-duration busy pulse (decision D31). -/
theorem complete_acceptCommand (c : Byte) (s : State) :
    .next (State.complete true (State.acceptCommand c s)) = completedAtOnce s c [] := by
  rw [complete_true_eq, acceptCommand_eq]
  simp [completedAtOnce]

/-- An unknown command differs from a known immediate one in its diagnostic only. -/
theorem unknownCommand_completes (b : Byte) (s : State) :
    .next (State.unknownCommand b s) = completedAtOnce s b [.unknownCommand b] :=
  congrArg Host.Outcome.next (unknownCommand_eq b s)

/-- A command that waits in the state `q` for its operand leaves INTN at busy. -/
theorem acceptCommand_then_waits (c : Byte) (q : ProtocolState) (s : State) :
    { State.acceptCommand c s with state := q } =
      { s with
        cmd := c, intn := .high, state := q
        out := { s.out with writes := s.out.writes ++ [.intn .high] } } := by
  rw [acceptCommand_eq]

/-- Settles O9: Null is accepted and completed; the fallback rows of both sets are the one unknown command. -/
theorem nullAndUnknownComplete : Obligations.NullAndUnknownComplete :=
  fun s b =>
    ⟨complete_acceptCommand s.cfg.cmd0Null s, unknownCommand_completes b s, unknownCommand_completes b s⟩

/-- Settles O10: both commands are accepted and completed, like Null. -/
theorem displayCommandsComplete : Obligations.DisplayCommandsComplete :=
  fun s =>
    ⟨complete_acceptCommand s.cfg.cmd0DisplayOff s, complete_acceptCommand s.cfg.cmd0DisplayOn s⟩

/-- Settles O11: three commands are accepted and enter their operand state, FrameBegin is accepted alone. -/
theorem operandCommandsWait : Obligations.OperandCommandsWait :=
  fun s =>
    ⟨congrArg Host.Outcome.next (acceptCommand_then_waits s.cfg.cmd0SetParameter .acceptingParameter s),
      congrArg Host.Outcome.next (acceptCommand_then_waits s.cfg.cmd0DrawScene .acceptingSceneByte s),
      congrArg Host.Outcome.next (acceptCommand_then_waits s.cfg.cmd1FrameData .acceptingLineNumber s),
      congrArg Host.Outcome.next (acceptCommand_eq s.cfg.cmd1FrameBegin s)⟩

/-! Scene bytes: what they leave in a cell. -/

/-- A filled framebuffer reads as the fill colour in every cell (20_memory.md R43). -/
theorem fbRead_of_filled {s : State} {v : Byte} (hfb : s.fb = Memory.build Config.fbSize fun _ => some v)
    {r c : Nat} (hr : r < Config.rows) (hc : c < Config.cols) : s.fbRead r c = v := by
  refine read_of_lookup .fb s.fb (fbAddr r c) v ?_
  rw [hfb]
  exact lookup_fill Config.fbSize v _ (fbAddr_lt hr hc)

/-- The three solid scenes are one operation, with the id and the colour of the scene. -/
theorem exec_solidScene {i : Instr} {id v : Byte}
    (h : (i, id, v) ∈ [(Instr.sceneBlack, 0x00#8, 0x00#8), (.sceneUpdate, 0x02#8, 0x30#8),
      (.sceneError, 0x03#8, 0x0C#8)]) (s : State) :
    exec i s = .next (State.drawn id (State.fbFill v) s) := by
  simp only [List.mem_cons, Prod.mk.injEq, List.not_mem_nil, or_false] at h
  obtain ⟨rfl, rfl, rfl⟩ | ⟨rfl, rfl, rfl⟩ | ⟨rfl, rfl, rfl⟩ := h <;> rfl

/-- A pixel made from six upper bits has two low bits of zero (00_scope.md R8). -/
theorem append_zero_and_three_eq_zero (v : BitVec 6) : (v ++ 0#2 : Byte) &&& 0x03#8 = 0x00#8 := by
  revert v
  decide

/-- The splash leaves what a cell reads as, or gives it two low bits of zero. -/
theorem read_splashRender_kept_or_low_bits_zero (fb : Memory) {a : Nat} (h : a < Space.fb.size) :
    Memory.read .fb (splashRender fb) a = Memory.read .fb fb a ∨
      Memory.read .fb (splashRender fb) a &&& 0x03#8 = 0x00#8 := by
  rw [read_splashRender fb h]
  cases Config.splashPixel (Memory.contents .fb fb) a with
  | none => exact Or.inl rfl
  | some v => exact Or.inr (append_zero_and_three_eq_zero v)

/-- Settles O14: the fill answers for the cells, `drawn_eq` for the rest of the state. -/
theorem solidScenesFill : Obligations.SolidScenesFill := by
  intro s i id v h
  have hdrawn := drawn_eq id (State.fbFill v) (fun _ => Memory.build Config.fbSize fun _ => some v)
    (fun _ => rfl) s
  refine ⟨_, (exec_solidScene h s).trans (congrArg Host.Outcome.next hdrawn), ?_, rfl⟩
  exact fun r c hr hc => fbRead_of_filled rfl hr hc

/-- Settles O15: each cell goes by what `SPLASH_RENDER` answers for it, the rest is the next state of the scene. -/
theorem splashSceneDraws : Obligations.SplashSceneDraws :=
  fun s =>
    ⟨_, exec_sceneSplash s,
      fun _ _ hr hc => read_splashRender_kept_or_low_bits_zero s.fb (fbAddr_lt hr hc), rfl⟩

/-- Settles O17: the scene byte is stored and reported, and then the command completes. -/
theorem unknownSceneDrawsNothing : Obligations.UnknownSceneDrawsNothing :=
  fun s id =>
    congrArg Host.Outcome.next (complete_true_eq (State.emitDiag (.unknownScene id) { s with scene := id }))

end Sys2Proof.Machine

/-!
PROOFS. The commands of the firmware command set (42_set1_commands.md): FrameEnd, and the lines of FrameData as the
framebuffer write controller takes them, byte by byte, line by line, and cut short.
-/
namespace Sys2Proof.Machine

/-! FrameEnd, and the first byte of a line. -/

/-- Settles O12: the command is accepted, then the redraw marked, then the command completed. -/
theorem frameEndMarksRedraw : Obligations.FrameEndMarksRedraw := by
  intro s
  show Host.Outcome.next (State.complete true (State.setRedraw true (State.acceptCommand s.cfg.cmd1FrameEnd s))) = _
  rw [complete_true_eq, acceptCommand_eq]
  simp [State.setRedraw]

theorem columnOf_eq (c : Byte) : columnOf c = if c.toNat < 148 then c else 0x00#8 := by
  simp [columnOf, columnInRange, Config.cols]

theorem rowStart_eq : Config.rowStart = 187 := rfl

/-- Settles O21: the index decides between its own column and column 0, which is reported. -/
theorem lineIndexStartsLine : Obligations.LineIndexStartsLine := by
  intro c s
  rw [exec_lineIndex, columnOf_eq, rowStart_eq]
  by_cases hc : c.toNat < 148 <;> simp [columnInRange, Config.cols, hc]

/-! One data byte, and what it leaves in the framebuffer. -/

/-- The framebuffer after a data byte `b` at a row cursor: written in column `c` where the row is visible. -/
def putAtRow (c : Nat) (row : Int) (b : Byte) (fb : Memory) : Memory :=
  if 0 ≤ row ∧ row < 172 then Memory.write fb (fbAddr row.toNat c) b else fb

/-- A data byte before the trigger goes where its row says and moves the row cursor (42_set1_commands.md R102). -/
theorem exec_lineData_of_ne_trigger {s : State} (b : Byte) (hrow : s.row ≠ -17) (hcol : s.col.toNat < 148) :
    exec (.lineData b) s =
      .next { s with fb := putAtRow s.col.toNat s.row b s.fb, row := s.row - 1 } := by
  show execLineData b s = _
  obtain ⟨htrig, -⟩ | ⟨hpad, heq⟩ | ⟨hvis, -, heq⟩ | ⟨-, hout, -⟩ := execLineData_cases b s
  · exact absurd htrig hrow
  · rw [heq, putAtRow, if_neg (by omega)]
  · rw [heq, putAtRow, if_pos hvis]
  · omega

/-- The trigger byte ends the line (R102; the row cursor by decision D17). -/
theorem exec_lineData_trigger {s : State} (b : Byte) (hrow : s.row = -17) :
    exec (.lineData b) s = .next { s with
      state := .acceptingLineNumber, intn := .low
      out := { s.out with writes := s.out.writes ++ [.intn .low] } } := by
  show execLineData b s = _
  obtain ⟨-, heq⟩ | ⟨hpad, -⟩ | ⟨hvis, -⟩ | ⟨hvis, -⟩ := execLineData_cases b s
  · exact heq
  all_goals omega

/-- Settles O23: the row cursor names the class of the byte; the column, in range or not, plays no part. -/
theorem paddingAndTriggerBytes : Obligations.PaddingAndTriggerBytes := by
  refine fun b s => ⟨fun hpad => ?_, exec_lineData_trigger b⟩
  show execLineData b s = _
  obtain ⟨htrig, -⟩ | ⟨-, heq⟩ | ⟨hvis, -⟩ | ⟨hvis, -⟩ := execLineData_cases b s
  · omega
  · exact heq
  · omega
  · omega

/-- A data byte changes the cell of its row and column only, and none where the row is not visible. -/
theorem read_putAtRow {c r k : Nat} (row : Int) (b : Byte) (fb : Memory) (hc : c < 148) (hr : r < 172)
    (hk : k < 148) :
    Memory.read .fb (putAtRow c row b fb) (fbAddr r k) =
      if (r : Int) = row ∧ k = c then b else Memory.read .fb fb (fbAddr r k) := by
  unfold putAtRow
  split
  · have haddr : fbAddr r k = fbAddr row.toNat c ↔ (r : Int) = row ∧ k = c := by
      constructor
      · intro h
        obtain ⟨hrow, hcol⟩ := fbAddr_inj hk hc h
        omega
      · rintro ⟨rfl, rfl⟩
        rfl
    simp only [read_write, haddr]
  · rw [if_neg (by omega)]

/-- Settles O22: the byte is put at its row and column, and cells have addresses of their own. -/
theorem visibleByteWritten : Obligations.VisibleByteWritten := by
  intro b s hlow hhigh hcol
  refine ⟨_, exec_lineData_of_ne_trigger b (by omega) hcol,
    fun r k hr hk => read_putAtRow s.row b s.fb hcol hr hk, fun a => ?_, rfl⟩
  show Memory.read .fb (putAtRow _ _ _ _) a = _
  rw [putAtRow, if_pos ⟨hlow, hhigh⟩, read_write]

/-! The bytes of a line up to the trigger. -/

/-- The framebuffer after data bytes in column `c`, the first at a row cursor and each one row below the last. -/
def fillColumn (c : Nat) : Int → List Byte → Memory → Memory
  | _, [], fb => fb
  | row, b :: bs, fb => fillColumn c (row - 1) bs (putAtRow c row b fb)

/-- Data bytes reach the rows from the cursor downwards, as many as there are bytes, and no other column. -/
theorem read_fillColumn {c r k : Nat} (row : Int) (bs : List Byte) (fb : Memory) (hc : c < 148) (hr : r < 172)
    (hk : k < 148) :
    Memory.read .fb (fillColumn c row bs fb) (fbAddr r k) =
      if k = c ∧ row - bs.length < r ∧ (r : Int) ≤ row then bs.getD (row - r).toNat 0x00#8
      else Memory.read .fb fb (fbAddr r k) := by
  induction bs generalizing row fb with
  | nil =>
    rw [fillColumn, if_neg]
    simp only [List.length_nil]
    omega
  | cons b bs ih =>
    rw [fillColumn, ih, read_putAtRow row b fb hc hr hk, List.length_cons]
    obtain habove | hfirst | hbelow : row < r ∨ row = r ∨ (r : Int) < row := by omega
    · rw [if_neg (by omega), if_neg (by omega), if_neg (by omega)]
    · rw [if_neg (by omega), show (row - r).toNat = 0 by omega, List.getD_cons_zero]
      exact if_congr (by omega) rfl rfl
    · rw [show (row - r).toNat = (row - 1 - r).toNat + 1 by omega, List.getD_cons_succ,
        if_neg (c := (r : Int) = row ∧ k = c) (by omega)]
      exact if_congr (by omega) rfl rfl

/-- Data bytes before the trigger fill the column and move the row cursor; the line goes on. -/
theorem runSteps_lineData (bs : List Byte) {s : State} {rest : List Event}
    (hi : s.inputs = bs.map Event.byte ++ rest) (hf : s.fault = false) (hcs : s.cs = true)
    (hst : s.state = .acceptingData) (hcol : s.col.toNat < 148) (hrow : -17 ≤ s.row - bs.length) :
    ∃ out, runSteps bs.length s = .next { s with
      fb := fillColumn s.col.toNat s.row bs s.fb, row := s.row - bs.length, inputs := rest, out := out } := by
  induction bs generalizing s with
  | nil =>
    obtain rfl : s.inputs = rest := hi
    exact ⟨s.out, by simp [runSteps_zero, fillColumn]⟩
  | cons b bs ih =>
    rw [List.length_cons] at hrow
    have hne : s.row ≠ -17 := by omega
    have hstep : step s = _ := (step_of_decode hi hf hcs (decode_data s.cfg b hst)).trans
      (exec_lineData_of_ne_trigger (s := State.receive s (.byte b) _) b hne hcol)
    obtain ⟨out, hrun⟩ := ih
      (s := { State.receive s (.byte b) (bs.map Event.byte ++ rest) with
        fb := putAtRow s.col.toNat s.row b s.fb, row := s.row - 1 })
      rfl hf hcs hst hcol (by show -17 ≤ s.row - 1 - (bs.length : Int); omega)
    have hlast : s.row - 1 - (bs.length : Int) = s.row - (b :: bs).length := by
      rw [List.length_cons]
      omega
    refine ⟨out, (runSteps_next hstep).trans (hrun.trans ?_)⟩
    rw [← hlast]
    rfl

/-- The device `s` within a line: after the index `c` and the data bytes `ds`, none of them the trigger. -/
def openLine (s : State) (c : Byte) (ds : List Byte) (rest : List Event) (out : EventOutput) : State :=
  { s with
    fb := fillColumn (columnOf c).toNat 187 ds s.fb, col := columnOf c, row := 187 - (ds.length : Int)
    state := .acceptingData, intn := .high, inputs := rest, out := out }

@[simp] theorem openLine_state (s : State) (c : Byte) (ds : List Byte) (rest : List Event) (out : EventOutput) :
    (openLine s c ds rest out).state = .acceptingData := rfl
@[simp] theorem openLine_row (s : State) (c : Byte) (ds : List Byte) (rest : List Event) (out : EventOutput) :
    (openLine s c ds rest out).row = 187 - (ds.length : Int) := rfl

/-- A column index and at most 204 data bytes fill the column as far as they reach, and the line stays open. -/
theorem runSteps_openLine {s : State} {c : Byte} {ds : List Byte} {rest : List Event}
    (hi : s.inputs = (c :: ds).map Event.byte ++ rest) (hlen : ds.length ≤ 204) (hf : s.fault = false)
    (hcs : s.cs = true) (hst : s.state = .acceptingLineNumber) :
    ∃ out, runSteps (ds.length + 1) s = .next (openLine s c ds rest out) := by
  have hstep : step s = _ := (step_of_decode hi hf hcs (decode_lineNumber s.cfg c hst)).trans
    (exec_lineIndex c (State.receive s (.byte c) _))
  have htrigger : -17 ≤ Config.rowStart - (ds.length : Int) := by
    rw [rowStart_eq]
    omega
  rw [runSteps_next hstep]
  exact runSteps_lineData ds rfl hf hcs rfl (columnOf_lt c) htrigger

/-- The cells of an open line: in its column, the rows from 171 down that the data bytes have reached (R105). -/
theorem read_lineFilled (c : Byte) (ds : List Byte) (fb : Memory) {r k : Nat} (hr : r < 172) (hk : k < 148) :
    Memory.read .fb (fillColumn (columnOf c).toNat 187 ds fb) (fbAddr r k) =
      if k = (columnOf c).toNat ∧ 188 ≤ r + ds.length then ds.getD (187 - r) 0x00#8
      else Memory.read .fb fb (fbAddr r k) := by
  rw [read_fillColumn 187 ds fb (columnOf_lt c) hr hk, show (187 - (r : Int)).toNat = 187 - r by omega]
  exact if_congr (by omega) rfl rfl

/-- An event that stops nothing, sent after the bytes of an open line, is handled on the open line. -/
theorem runSteps_event_after_openLine {s : State} {c : Byte} {ds : List Byte} {e : Event} {rest : List Event}
    {f : State → State} (he : ∀ u, handle e u = .next (f u))
    (hi : s.inputs = (c :: ds).map Event.byte ++ e :: rest) (hlen : ds.length ≤ 204) (hf : s.fault = false)
    (hcs : s.cs = true) (hst : s.state = .acceptingLineNumber) :
    ∃ out, runSteps (ds.length + 2) s = .next (f (State.receive (openLine s c ds (e :: rest) out) e rest)) := by
  obtain ⟨out, hopen⟩ := runSteps_openLine hi hlen hf hcs hst
  have hlast := (step_of_event (s := openLine s c ds (e :: rest) out) rfl hf).trans (he _)
  exact ⟨out, (runSteps_add (k := 1) hopen).trans (runSteps_next hlast)⟩

/-! Whole lines, and lines cut short. -/

/-- Settles O25: 204 data bytes fill the column and leave the cursor at the trigger row, the last one ends the line. -/
theorem wholeLineWritesColumn : Obligations.WholeLineWritesColumn := by
  intro s c ds rest hi hlen hf hcs hst
  rw [← columnOf_eq]
  obtain ⟨ds, d, rfl⟩ : ∃ ds' d, ds = ds' ++ [d] :=
    ⟨_, _, (List.dropLast_append_getLast (by rintro rfl; simp at hlen)).symm⟩
  replace hlen : ds.length = 204 := by simpa using hlen
  replace hi : s.inputs = (c :: ds).map Event.byte ++ .byte d :: rest := by simpa using hi
  obtain ⟨out, hopen⟩ := runSteps_openLine hi hlen.le hf hcs hst
  set u := openLine s c ds (.byte d :: rest) out with hu
  have hrow : u.row = -17 := by simp [hu, hlen]
  have hlast := (step_of_decode (s := u) rfl hf hcs (decode_data _ d rfl)).trans
    (exec_lineData_trigger (s := State.receive u (.byte d) rest) d hrow)
  rw [hlen] at hopen
  refine ⟨_, (runSteps_add (k := 1) hopen).trans (runSteps_next hlast), fun r k hr hk => ?_, ?_⟩
  · refine (read_lineFilled c ds s.fb hr hk).trans (if_congr (by omega) ?_ rfl)
    rw [List.getD_append _ _ _ _ (by omega)]
  · rw [← hrow, ← hst]
    rfl

/-- The chip-select abort, on the handler (44_signals.md R114). -/
theorem onChipSelect_abort {s : State} (hcs : s.cs = true) (hst : s.state ≠ .programming) :
    onChipSelect false s = State.complete true { s with cs := false } := by
  obtain ⟨hno, -⟩ | ⟨-, -, -, heq⟩ | ⟨-, hother, -⟩ := onChipSelect_cases false s
  · simp [hcs] at hno
  · exact heq
  · simp [hst] at hother

/-- The reset release edge, on the handler (70_reset_and_hazards.md R140). -/
theorem onReset_release {s : State} (hrst : s.rst = true) : onReset false s = resetReleased s := by
  obtain ⟨hno, -⟩ | ⟨hno, -⟩ | ⟨-, -, heq⟩ := onReset_cases false s
  · simp [hrst] at hno
  · simp at hno
  · exact heq

/-- Settles O26: the de-assertion completes over the open line and writes no cell. -/
theorem shortLineKeepsItsBytes : Obligations.ShortLineKeepsItsBytes := by
  intro s c ds rest hi hlen hf hcs hst
  rw [← columnOf_eq]
  obtain ⟨out, hrun⟩ :=
    runSteps_event_after_openLine (f := onChipSelect false) (fun _ => rfl) hi hlen hf hcs hst
  rw [onChipSelect_abort (s := State.receive (openLine ..) ..) hcs (by simp)] at hrun
  exact ⟨_, hrun, fun _ _ hr hk => read_lineFilled c ds s.fb hr hk, rfl⟩

/-- Settles O27: the release writes its registers over those of the open line and writes no cell. -/
theorem resetKeepsShortLine : Obligations.ResetKeepsShortLine := by
  intro s c ds rest hi hlen hf hcs hrst hst
  rw [← columnOf_eq]
  obtain ⟨out, hrun⟩ :=
    runSteps_event_after_openLine (f := onReset false) (fun _ => rfl) hi hlen hf hcs hst
  rw [onReset_release (s := State.receive (openLine ..) ..) hrst] at hrun
  exact ⟨_, hrun, fun _ _ hr hk => read_lineFilled c ds s.fb hr hk, rfl⟩

/-! The column stream (42_set1_commands.md R106). -/

/-- The device takes a line's bytes: in one of the stream's two states, both gates open, the column in range. -/
def InStream (s : State) : Prop :=
  s.fault = false ∧ s.cs = true ∧ s.col.toNat < 148 ∧
    (s.state = .acceptingLineNumber ∨ s.state = .acceptingData)

/-- The two states agree on what a byte of the stream leaves alone (R106). -/
def SameCommand (s t : State) : Prop :=
  t.redraw = s.redraw ∧ t.cmdset = s.cmdset ∧ t.cmd = s.cmd

/-- A byte of the stream is an index or a data byte, and neither leaves the stream. -/
theorem step_stays_inStream {s : State} {b : Byte} {rest : List Event} (hs : InStream s)
    (hi : s.inputs = .byte b :: rest) :
    ∃ t, step s = .next t ∧ InStream t ∧ SameCommand s t ∧ t.inputs = rest := by
  obtain ⟨hf, hcs, hcol, hline | hdata⟩ := hs
  · rw [step_of_decode hi hf hcs (decode_lineNumber s.cfg b hline), exec_lineIndex]
    exact ⟨_, rfl, ⟨hf, hcs, columnOf_lt b, .inr rfl⟩, ⟨rfl, rfl, rfl⟩, rfl⟩
  · rw [step_of_decode hi hf hcs (decode_data s.cfg b hdata)]
    by_cases hrow : s.row = -17
    · rw [exec_lineData_trigger (s := State.receive s (.byte b) rest) b hrow]
      exact ⟨_, rfl, ⟨hf, hcs, hcol, .inl rfl⟩, ⟨rfl, rfl, rfl⟩, rfl⟩
    · rw [exec_lineData_of_ne_trigger (s := State.receive s (.byte b) rest) b hrow hcol]
      exact ⟨_, rfl, ⟨hf, hcs, hcol, .inr hdata⟩, ⟨rfl, rfl, rfl⟩, rfl⟩

theorem runSteps_stays_inStream (bs : List Byte) {s : State} {rest : List Event} (hs : InStream s)
    (hi : s.inputs = bs.map Event.byte ++ rest) :
    ∃ t, runSteps bs.length s = .next t ∧ InStream t ∧ SameCommand s t ∧ t.inputs = rest := by
  induction bs generalizing s with
  | nil => exact ⟨s, runSteps_zero s, hs, ⟨rfl, rfl, rfl⟩, hi⟩
  | cons b bs ih =>
    obtain ⟨u, hstep, hu, ⟨hredraw, hset, hcmd⟩, hui⟩ := step_stays_inStream hs hi
    obtain ⟨t, hrun, ht, ⟨hredraw', hset', hcmd'⟩, hti⟩ := ih hu hui
    exact ⟨t, (runSteps_next hstep).trans hrun, ht,
      ⟨hredraw'.trans hredraw, hset'.trans hset, hcmd'.trans hcmd⟩, hti⟩

/-- Settles O28: the stream is closed under bytes, so under any run of them. -/
theorem bytesStayInStream : Obligations.BytesStayInStream := by
  intro s bs rest hi hf hcs hcol hst
  obtain ⟨t, hrun, ⟨-, -, -, ht⟩, ⟨hredraw, hset, hcmd⟩, hti⟩ :=
    runSteps_stays_inStream bs ⟨hf, hcs, hcol, hst⟩ hi
  exact ⟨t, hrun, ht, hredraw, hset, hcmd, hti⟩

end Sys2Proof.Machine

/-!
PROOFS. The command-set classifier (43_classifier.md): how the header splits into strings, which of them decides, and
what the table then answers.
-/
namespace Sys2Proof.Machine

/-! The segmentation: equations for a run of non-zero bytes at the front (43_classifier.md R109). -/

@[simp] theorem headerStrings_nil : headerStrings [] = [] := rfl

theorem headerStrings_zero_cons (bs : List Byte) : headerStrings (0x00#8 :: bs) = [] :: headerStrings bs :=
  if_pos rfl

/-- A non-zero byte joins the first string of the rest, or begins one where the rest has none. -/
theorem headerStrings_cons_of_ne {b : Byte} (hb : b ≠ 0x00#8) (bs : List Byte) :
    headerStrings (b :: bs) = (b :: (headerStrings bs).headD []) :: (headerStrings bs).tail := by
  rw [headerStrings, if_neg hb]
  cases headerStrings bs <;> rfl

theorem headerStrings_run_zero {run : List Byte} (hrun : 0x00#8 ∉ run) (bs : List Byte) :
    headerStrings (run ++ 0x00#8 :: bs) = run :: headerStrings bs := by
  induction run with
  | nil => exact headerStrings_zero_cons bs
  | cons b run ih =>
    obtain ⟨hb, hrun⟩ := List.ne_and_not_mem_of_not_mem_cons hrun
    rw [List.cons_append, headerStrings_cons_of_ne (Ne.symm hb), ih hrun]
    rfl

/-- A last run is a string without its zero byte, unless it is empty (decision D6). -/
theorem headerStrings_lastRun {run : List Byte} (hrun : 0x00#8 ∉ run) (hne : run ≠ []) :
    headerStrings run = [run] := by
  induction run with
  | nil => exact absurd rfl hne
  | cons b run ih =>
    obtain ⟨hb, hrun⟩ := List.ne_and_not_mem_of_not_mem_cons hrun
    rw [headerStrings_cons_of_ne (Ne.symm hb)]
    cases run with
    | nil => rfl
    | cons c cs => rw [ih hrun (List.cons_ne_nil c cs)]; rfl

theorem mem_headerStrings_lastRun {run x : List Byte} (hrun : 0x00#8 ∉ run) (hx : x ∈ headerStrings run) :
    x = run := by
  by_cases hne : run = []
  · simp [hne] at hx
  · rwa [headerStrings_lastRun hrun hne, List.mem_singleton] at hx

theorem headerStrings_ne_nil {bs : List Byte} (hne : bs ≠ []) : headerStrings bs ≠ [] := by
  obtain ⟨b, bs, rfl⟩ := List.exists_cons_of_ne_nil hne
  by_cases hb : b = 0x00#8
  · simp [hb, headerStrings_zero_cons]
  · simp [headerStrings_cons_of_ne hb]

theorem headerStrings_terminated {pre : List (List Byte)} (hpre : ∀ x ∈ pre, 0x00#8 ∉ x) (bs : List Byte) :
    headerStrings ((pre.map (· ++ [0x00#8])).flatten ++ bs) = pre ++ headerStrings bs := by
  induction pre with
  | nil => rfl
  | cons x pre ih =>
    obtain ⟨hx, hpre⟩ := List.forall_mem_cons.mp hpre
    have hsplit : ((x :: pre).map (· ++ [0x00#8])).flatten ++ bs =
        x ++ 0x00#8 :: ((pre.map (· ++ [0x00#8])).flatten ++ bs) := by simp
    rw [hsplit, headerStrings_run_zero hx, ih hpre, List.cons_append]

/-- Induction along the strings: a header is one run without a zero byte, or such a run, a zero byte and a header. -/
theorem header_induction {motive : List Byte → Prop}
    (last : ∀ run : List Byte, 0x00#8 ∉ run → motive run)
    (step : ∀ run bs : List Byte, 0x00#8 ∉ run → motive bs → motive (run ++ 0x00#8 :: bs))
    (bs : List Byte) : motive bs := by
  by_cases hmem : 0x00#8 ∈ bs
  · obtain ⟨run, rest, hbs, hrun⟩ := List.eq_append_cons_of_mem hmem
    have hshorter : rest.length < bs.length := by simp [hbs]; omega
    exact hbs ▸ step run rest hrun (header_induction last step rest)
  · exact last bs hmem
termination_by bs.length

theorem zero_notMem_of_mem_headerStrings (bs : List Byte) : ∀ x ∈ headerStrings bs, 0x00#8 ∉ x := by
  induction bs using header_induction with
  | last run hrun => exact fun x hx => mem_headerStrings_lastRun hrun hx ▸ hrun
  | step run bs hrun ih =>
    rw [headerStrings_run_zero hrun]
    exact List.forall_mem_cons.mpr ⟨hrun, ih⟩

/-- The strings joined by zero bytes are the header, but for a zero byte at its end, which opens no string. -/
theorem intercalate_headerStrings (bs : List Byte) :
    bs = List.intercalate [0x00#8] (headerStrings bs) ∨
      bs = List.intercalate [0x00#8] (headerStrings bs) ++ [0x00#8] := by
  induction bs using header_induction with
  | last run hrun =>
    left
    by_cases hne : run = []
    · simp [hne]
    · rw [headerStrings_lastRun hrun hne, List.intercalate_singleton]
  | step run bs hrun ih =>
    rw [headerStrings_run_zero hrun]
    by_cases hne : bs = []
    · right
      simp [hne]
    · rw [List.intercalate_cons_of_ne_nil (headerStrings_ne_nil hne)]
      refine ih.imp (fun h => ?_) fun h => ?_
      · simp [← h]
      · simp [← h]

/-- Settles O43, by induction along the strings. -/
theorem headerStringsAreTheRuns : Obligations.HeaderStringsAreTheRuns :=
  fun bs => ⟨zero_notMem_of_mem_headerStrings bs, intercalate_headerStrings bs⟩

/-! The answer: the first date string, then the first entry of the table (43_classifier.md R108, R110, R111). -/

theorem isPrefixOf_eq_decide (p s : List Byte) : p.isPrefixOf s = decide (p <+: s) :=
  Bool.eq_iff_iff.mpr (List.isPrefixOf_iff_prefix.trans decide_eq_true_iff.symm)

theorem classify_of_noDateString (table : List (List Byte × Vocabulary)) {bytes : List Byte}
    (hno : ∀ x ∈ headerStrings (bytes.drop Config.hdrSkip), ¬ Config.dateMark <+: x) :
    classify table bytes = (.set1, some .noDateString) := by
  have hnone : (headerStrings (bytes.drop Config.hdrSkip)).find? (Config.dateMark.isPrefixOf ·) = none :=
    List.find?_eq_none.mpr fun x hx => mt List.isPrefixOf_iff_prefix.mp (hno x hx)
  rw [classify, hnone]

section FirstDate
variable {bytes d : List Byte} {pre rest : List (List Byte)}
  (hstrings : headerStrings (bytes.drop Config.hdrSkip) = pre ++ d :: rest)
  (hpre : ∀ x ∈ pre, ¬ Config.dateMark <+: x) (hd : Config.dateMark <+: d)
include hstrings hpre hd

theorem find_firstDateString :
    (headerStrings (bytes.drop Config.hdrSkip)).find? (Config.dateMark.isPrefixOf ·) = some d := by
  refine List.find?_eq_some_iff_append.mpr
    ⟨List.isPrefixOf_iff_prefix.mpr hd, pre, rest, hstrings, fun x hx => ?_⟩
  rw [isPrefixOf_eq_decide]
  simpa using hpre x hx

theorem classify_of_entry {table : List (List Byte × Vocabulary)} {e : List Byte × Vocabulary}
    (he : table.find? (fun e => decide (e.1 <+: d)) = some e) : classify table bytes = (e.2, none) := by
  simp only [← isPrefixOf_eq_decide] at he
  rw [classify, find_firstDateString hstrings hpre hd]
  simp only [he]

theorem classify_of_no_entry {table : List (List Byte × Vocabulary)}
    (he : table.find? (fun e => decide (e.1 <+: d)) = none) :
    classify table bytes = (.set1, some (.dateNotRecognised d)) := by
  simp only [← isPrefixOf_eq_decide] at he
  rw [classify, find_firstDateString hstrings hpre hd]
  simp only [he]

end FirstDate

/-- Past the marker stand the terminated strings, then `d`, which the end of the capture or a zero byte ends. -/
theorem headerStrings_through_date (m0 m1 : Byte) {pre : List (List Byte)} {d tail : List Byte}
    (hpre : ∀ x ∈ pre, 0x00#8 ∉ x) (hzero : 0x00#8 ∉ d) (hne : d ≠ [])
    (htail : tail = [] ∨ ∃ more, tail = 0x00#8 :: more) :
    ∃ rest, headerStrings
      (([m0, m1] ++ (pre.map (· ++ [0x00#8])).flatten ++ d ++ tail).drop Config.hdrSkip) = pre ++ d :: rest := by
  have hdrop : ([m0, m1] ++ (pre.map (· ++ [0x00#8])).flatten ++ d ++ tail).drop Config.hdrSkip =
      (pre.map (· ++ [0x00#8])).flatten ++ (d ++ tail) := by simp
  rw [hdrop, headerStrings_terminated hpre]
  obtain rfl | ⟨more, rfl⟩ := htail
  · exact ⟨[], by rw [List.append_nil, headerStrings_lastRun hzero hne]⟩
  · exact ⟨headerStrings more, by rw [headerStrings_run_zero hzero]⟩

/-- Settles O44: the segmentation puts `d` after `pre`, and the table is then searched for `d`. -/
theorem firstDateStringDecides : Obligations.FirstDateStringDecides := by
  intro table m0 m1 pre d tail hpre hzero hd htail
  have hne : d ≠ [] := by
    rintro rfl
    exact absurd hd (by decide)
  obtain ⟨rest, hstrings⟩ := headerStrings_through_date m0 m1 (fun x hx => (hpre x hx).1) hzero hne htail
  have hplain : ∀ x ∈ pre, ¬ Config.dateMark <+: x := fun x hx => (hpre x hx).2
  cases he : table.find? (fun e => decide (e.1 <+: d)) with
  | some e => exact classify_of_entry hstrings hplain hd he
  | none => exact classify_of_no_entry hstrings hplain hd he

/-! The default table: its two dates begin with the mark, hold no zero byte, and neither begins with the other. -/

theorem find_defaultEntry_dateSet0 (more : List Byte) :
    Config.defaults.dateTable.find? (fun e => decide (e.1 <+: Config.dateSet0 ++ more)) =
      some (Config.dateSet0, .set0) := by
  simp [Config.defaults]

theorem find_defaultEntry_dateSet1 (more : List Byte) :
    Config.defaults.dateTable.find? (fun e => decide (e.1 <+: Config.dateSet1 ++ more)) =
      some (Config.dateSet1, .set1) := by
  have hother : ¬ Config.dateSet0 <+: Config.dateSet1 ++ more := fun h =>
    absurd (List.prefix_of_prefix_length_le h (List.prefix_append _ more) (by decide)) (by decide)
  simp [Config.defaults, hother]

/-- Settles O45: each known date is a date string, and the table's entry for it is found whatever follows. -/
theorem knownDatesSelectSets : Obligations.KnownDatesSelectSets := by
  intro m0 m1 pre more tail hpre hmore htail
  have hdate : ∀ date set, 0x00#8 ∉ date → Config.dateMark <+: date →
      Config.defaults.dateTable.find? (fun e => decide (e.1 <+: date ++ more)) = some (date, set) →
      classify Config.defaults.dateTable
        ([m0, m1] ++ (pre.map (· ++ [0x00#8])).flatten ++ (date ++ more) ++ tail) = (set, none) := by
    intro date set hzero hmark hfind
    rw [firstDateStringDecides Config.defaults.dateTable m0 m1 pre (date ++ more) tail hpre
      (by simp [hzero, hmore]) (hmark.trans (List.prefix_append date more)) htail, hfind]
  exact ⟨hdate _ _ (by decide) (by decide) (find_defaultEntry_dateSet0 more),
    hdate _ _ (by decide) (by decide) (find_defaultEntry_dateSet1 more)⟩

/-- Settles O46: the strings are `pre` and perhaps `last`; two bytes or fewer leave none. -/
theorem noDateStringSelectsSet1 : Obligations.NoDateStringSelectsSet1 := by
  intro table m0 m1 pre last short hpre hzero hlast hshort
  constructor
  · refine classify_of_noDateString table fun x hx => ?_
    have hdrop : ([m0, m1] ++ (pre.map (· ++ [0x00#8])).flatten ++ last).drop Config.hdrSkip =
        (pre.map (· ++ [0x00#8])).flatten ++ last := by simp
    rw [hdrop, headerStrings_terminated fun x hx => (hpre x hx).1, List.mem_append] at hx
    obtain hx | hx := hx
    · exact (hpre x hx).2
    · rwa [mem_headerStrings_lastRun hzero hx]
  · have hempty : short.drop Config.hdrSkip = [] := List.drop_eq_nil_of_le hshort
    exact classify_of_noDateString table (by simp [hempty])

end Sys2Proof.Machine

/-!
PROOFS. The chip-select and clock events (44_signals.md sections 2 and 3): the abort, the counted edges, and the exit
from Programming on the 51st of them.
-/
namespace Sys2Proof.Machine

/-! Chip-select. -/

/-- An edge to active, or one in Programming, is latched; so is a level that repeats (44_signals.md R114, R115). -/
theorem onChipSelect_latches {a : Bool} {s : State} (h : a = s.cs ∨ a = true ∨ s.state = .programming) :
    onChipSelect a s = { s with cs := a } := by
  obtain ⟨rfl, heq⟩ | ⟨rfl, hcs, hst, -⟩ | ⟨-, -, heq⟩ := onChipSelect_cases a s
  · exact heq
  · simp [hcs, hst] at h
  · exact heq

/-- Settles O29: the abort is a completion, with the latch written. -/
theorem chipSelectAborts : Obligations.ChipSelectAborts := by
  intro s rest hi hf hcs hst
  rw [step_of_event hi hf]
  exact congrArg Host.Outcome.next (onChipSelect_abort (s := State.receive s (.chipSelect false) rest) hcs hst)

/-- Settles O30: of a chip-select event's cases, only the abort does more than latch. -/
theorem chipSelectOtherwiseLatches : Obligations.ChipSelectOtherwiseLatches := by
  intro s a rest hi hf h
  rw [step_of_event hi hf]
  exact congrArg Host.Outcome.next (onChipSelect_latches (s := State.receive s (.chipSelect a) rest) h)

/-! The clock, one event at a time. -/

theorem rising_iff {before after : Level} : rising before after = true ↔ before = .low ∧ after = .high := by
  simp [rising]

/-- A clock event that does not count latches the level (44_signals.md R116, R117). -/
theorem onClock_latches {l : Level} {s : State}
    (h : ¬ (s.sclk = .low ∧ l = .high ∧ s.cs = false ∧ s.sclkCnt.toNat ≤ 50)) :
    onClock l s = .next { s with sclk := l } := by
  have hno : ¬ (rising s.sclk l = true ∧ s.cs = false ∧ s.sclkCnt.toNat ≤ 50) := by
    rwa [rising_iff, and_assoc]
  exact if_neg hno

/-- Settles O31: the premise is that the counting condition fails, and then the level is latched. -/
theorem clockOtherwiseLatches : Obligations.ClockOtherwiseLatches := by
  intro s l rest hi hf h
  rw [step_of_event hi hf]
  exact onClock_latches (s := State.receive s (.clock l) rest) h

/-- Settles O32: below the threshold the rising edge counts and does nothing else. -/
theorem clockEdgeCounts : Obligations.ClockEdgeCounts :=
  fun _ _ hi hf hlow hcs hcnt => step_clock_counts hi hf hcs hlow hcnt

/-- The 51st counted edge in Programming drives DONE, then leaves the state (44_signals.md R116, D13). -/
theorem onClock_exit {s : State} (hlow : s.sclk = .low) (hcs : s.cs = false) (hcnt : s.sclkCnt.toNat = 50)
    (hst : s.state = .programming) :
    onClock .high s = leaveProgramming (State.driveDone true { s with sclk := .high, sclkCnt := 51#6 }) := by
  have hfull : s.sclkCnt + 1#6 = 51#6 := by bv_omega
  obtain ⟨hno, -⟩ | ⟨⟨-, -, hbelow⟩, -⟩ | ⟨-, hother, -⟩ | ⟨-, -, heq⟩ := onClock_cases .high s
  · exact absurd ⟨rising_iff.mpr ⟨hlow, rfl⟩, hcs, hcnt.le⟩ hno
  · exact absurd hcnt hbelow.ne
  · exact absurd hst hother
  · rw [heq, hfull]

/-- The exit from Programming: INTN low, the offset zero, the classifier's set and diagnostic (R107, D29). -/
theorem leaveProgramming_eq {s : State} (hlen : s.hdrLen.toNat ≤ 256) :
    leaveProgramming s = .next { s with
      intn := .low, state := .acceptingCommand, paramOff := 0#2
      cmdset := (classify s.cfg.dateTable s.captured).1.toCmdSet
      out := { s.out with
        writes := s.out.writes ++ [.intn .low]
        diags := s.out.diags ++ (classify s.cfg.dateTable s.captured).2.toList } } := by
  rw [leaveProgramming, if_pos hlen, classifyHeader_eq]
  rfl

/-- Settles O33: the edge drives DONE and then leaves Programming, on outputs that start empty. -/
theorem clockEdgeLeavesProgramming : Obligations.ClockEdgeLeavesProgramming := by
  intro s rest hi hf hlow hcs hcnt hst hlen
  refine ⟨_, ?_, ?_, rfl⟩
  · rw [step_of_event hi hf]
    exact (onClock_exit (s := State.receive s (.clock .high) rest) hlow hcs hcnt hst).trans (leaveProgramming_eq hlen)
  · exact toCmdSet_ne_unknown _

/-! The clock, pulse after pulse. -/

theorem flatten_replicate_pulse (n : Nat) :
    (List.replicate n [Event.clock .high, Event.clock .low]).flatten = clockPulses n := by
  induction n with
  | zero => rfl
  | succ n ih =>
    rw [List.replicate_succ, List.flatten_cons, ih]
    rfl

/-- The last of the pulses, split off the others. -/
theorem clockPulses_succ_append (n : Nat) (rest : List Event) :
    clockPulses (n + 1) ++ rest = clockPulses n ++ .clock .high :: .clock .low :: rest := by
  simp [← flatten_replicate_pulse, List.replicate_succ']

/-- Settles O34: fifty pulses count fifty edges, and the rising edge of the next pulse is the exit. -/
theorem fiftyEdgesAreNotEnough : Obligations.FiftyEdgesAreNotEnough := by
  intro s n rest hi hf hlow hcs hzero hst hlen
  rw [flatten_replicate_pulse] at hi
  constructor
  · intro hn
    obtain ⟨out, hrun⟩ := runSteps_clockPulses n hi hf hcs hlow (by simpa [hzero] using hn)
    rw [hzero, BitVec.zero_add] at hrun
    exact ⟨_, hrun, rfl⟩
  · rintro rfl
    rw [clockPulses_succ_append] at hi
    obtain ⟨out, hpulses⟩ := runSteps_clockPulses 50 hi hf hcs hlow (by simp [hzero])
    rw [hzero, BitVec.zero_add] at hpulses
    obtain ⟨t, hrise, hset, rfl⟩ := clockEdgeLeavesProgramming
      { s with inputs := .clock .high :: .clock .low :: rest, sclkCnt := 50#6, out := out }
      (.clock .low :: rest) rfl hf hlow hcs rfl hst hlen
    have hrun := (runSteps_add (k := 2) hpulses).trans
      ((runSteps_next hrise).trans (runSteps_next (step_clock_low rfl (by exact hf))))
    exact ⟨_, hrun, rfl, rfl, rfl, rfl, hset⟩

end Sys2Proof.Machine

/-!
PROOFS. The colour mapper and the render handshake (45_pixel_mapper_render.md): what a `Render` puts out, and which
events write the redraw flag.
-/
namespace Sys2Proof.Machine

/-! What sets and clears `redraw` (45_pixel_mapper_render.md R121). -/

/-- The instructions that mark a redraw: FrameEnd, and the scenes that draw. -/
def redrawInstrs : List Instr := [.frameEnd, .sceneBlack, .sceneSplash, .sceneUpdate, .sceneError]

/-- An instruction leaves the redraw flag alone, or is one of those that set it. -/
theorem exec_redraw {i : Instr} {s t : State} (h : exec i s = .next t) :
    t.redraw = s.redraw ∨ t.redraw = true ∧ i ∈ redrawInstrs := by
  cases i with
  | sceneBlack | sceneSplash | sceneUpdate | sceneError | frameEnd =>
    cases h
    exact .inr ⟨rfl, by decide⟩
  | programmingByte b =>
    rw [exec_programmingByte, hdrAppend_frame] at h
    cases h
    exact .inl rfl
  | paramByte b =>
    change execParamByte b s = _ at h
    obtain ⟨-, heq⟩ | ⟨-, heq⟩ := execParamByte_cases b s <;> rw [heq] at h <;> cases h <;> exact .inl rfl
  | lineIndex c =>
    rw [exec_lineIndex] at h
    cases h
    exact .inl rfl
  | lineData b =>
    change execLineData b s = _ at h
    obtain ⟨-, heq⟩ | ⟨-, heq⟩ | ⟨-, -, heq⟩ | ⟨-, -, heq⟩ := execLineData_cases b s <;> rw [heq] at h <;>
      cases h <;> exact .inl rfl
  | null | setParameter | displayOff | displayOn | drawScene | unknown0 b | frameBegin | frameData | unknown1 b
  | sceneUnknown id =>
    cases h
    exact .inl rfl

/-- The bytes that mark a redraw, by what the device reads them as: a scene id of R89, or FrameEnd's opcode. -/
def MarksRedraw (s : State) (b : Byte) : Prop :=
  s.state = .acceptingSceneByte ∧ b ∈ s.cfg.sceneIds ∨
    s.state = .acceptingCommand ∧ s.cmdset = .set1 ∧ b = s.cfg.cmd1FrameEnd

/-- The round trip gives the byte of an instruction back, and the mode it fits. -/
theorem marksRedraw_of_decode {s : State} {b : Byte} {i : Instr} (hd : decode s.cfg s.mode b = .ok i)
    (hi : i ∈ redrawInstrs) : MarksRedraw s b := by
  have hst : i.arrivalState = s.state := arrivalState_of_decode hd
  obtain ⟨hbyte, -, hfits⟩ := encodeOfDecode s.cfg s.mode b i hd
  obtain ⟨-, hset, -⟩ := fits_iff.mp hfits
  simp only [redrawInstrs, List.mem_cons, List.not_mem_nil, or_false] at hi
  obtain rfl | rfl | rfl | rfl | rfl := hi
  · exact .inr ⟨hst.symm, hset .set1 rfl, hbyte.symm⟩
  all_goals exact .inl ⟨hst.symm, by simp [← hbyte, encode, Params.sceneIds]⟩

theorem onByte_redraw {b : Byte} {s t : State} (h : onByte b s = .next t) :
    t.redraw = s.redraw ∨ t.redraw = true ∧ MarksRedraw s b := by
  obtain ⟨-, heq⟩ | ⟨i, -, hd, heq⟩ | ⟨-, -, heq⟩ | ⟨-, -, heq⟩ := onByte_cases b s <;> rw [heq] at h
  · cases h
    exact .inl rfl
  · exact (exec_redraw h).imp_right fun ⟨hset, hi⟩ => ⟨hset, marksRedraw_of_decode hd hi⟩
  · cases h
    exact .inl rfl
  · cases h
    exact .inl ((congrArg State.redraw (reinvoke_frame b s)).trans rfl)

/-- Of the events only a byte sets the redraw flag, and only a `Render` clears it. -/
theorem handle_redraw {e : Event} {s t : State} (h : handle e s = .next t) :
    t.redraw = s.redraw ∨ (∃ b, e = .byte b ∧ t.redraw = true ∧ MarksRedraw s b) ∨
      e = .render ∧ t.redraw = false := by
  cases e with
  | byte b => exact (onByte_redraw h).imp_right fun hmark => .inl ⟨b, rfl, hmark⟩
  | chipSelect a =>
    cases h
    exact .inl ((congrArg State.redraw (onChipSelect_frame a s)).trans rfl)
  | clock l => exact .inl ((congrArg State.redraw (onClock_frame h)).trans rfl)
  | reset r =>
    cases h
    exact .inl ((congrArg State.redraw (onReset_frame r s)).trans rfl)
  | render =>
    cases h
    obtain ⟨-, heq⟩ | ⟨-, heq⟩ := onRender_cases s
    · exact .inl (congrArg State.redraw heq)
    · exact .inr (.inr ⟨rfl, congrArg State.redraw heq⟩)

theorem step_redraw {s t : State} (h : step s = .next t) :
    t.redraw = s.redraw ∨ (∃ b rest, s.inputs = .byte b :: rest ∧ t.redraw = true ∧ MarksRedraw s b) ∨
      (∃ rest, s.inputs = .render :: rest) ∧ t.redraw = false := by
  obtain ⟨-, heq⟩ | ⟨e, rest, -, -, heq⟩ | ⟨e, rest, hin, -, heq⟩ := step_cases s <;> rw [heq] at h
  · cases h
    exact .inl rfl
  · cases h
    exact .inl rfl
  · obtain hkept | ⟨b, rfl, hmark⟩ | ⟨rfl, hclear⟩ := handle_redraw h
    · exact .inl hkept
    · exact .inr (.inl ⟨b, rest, hin, hmark⟩)
    · exact .inr (.inr ⟨⟨rest, hin⟩, hclear⟩)

/-- Settles O51: a flag that changed was set by a byte that marks a redraw, or cleared by a `Render`. -/
theorem redrawWriters : Obligations.RedrawWriters := by
  intro s t h
  obtain hkept | ⟨b, rest, hin, hset, hmark⟩ | ⟨hin, hclear⟩ := step_redraw h
  · rw [hkept]
    exact ⟨fun hoff hon => absurd (hoff.symm.trans hon) nofun, fun hon hoff => absurd (hon.symm.trans hoff) nofun⟩
  · exact ⟨fun _ _ => ⟨b, rest, hin, hmark⟩, fun _ hoff => absurd (hset.symm.trans hoff) nofun⟩
  · exact ⟨fun _ hon => absurd (hclear.symm.trans hon) nofun, fun _ _ => hin⟩

/-! The pass of a `Render` (R119, R120). -/

/-- A pass has the colour of each cell at the cell's address (20_memory.md R40). -/
theorem renderPass_getElem? (s : State) {r c : Nat} (hr : r < Config.rows) (hc : c < Config.cols) :
    (renderPass s.fb)[fbAddr r c]? = some (colorMap (s.fbRead r c)) := by
  rw [renderPass, List.getElem?_map, contents_getElem? .fb s.fb _ (fbAddr_lt hr hc)]
  rfl

theorem step_render_of_redraw {s : State} {rest : List Event} (hi : s.inputs = .render :: rest)
    (hf : s.fault = false) (hredraw : s.redraw = true) :
    step s = .next { s with inputs := rest, redraw := false, out := { pass := some (renderPass s.fb) } } := by
  rw [step_of_event hi hf]
  simp [handle, onRender, hredraw, State.setRedraw, State.receive, returnedByte]

theorem step_render_of_no_redraw {s : State} {rest : List Event} (hi : s.inputs = .render :: rest)
    (hf : s.fault = false) (hredraw : s.redraw = false) : step s = .next { s with inputs := rest, out := {} } := by
  rw [step_of_event hi hf]
  simp [handle, onRender, hredraw, State.receive, returnedByte]

/-- Settles O40: the pass of a pending redraw is `renderPass`, whose colours stand at the addresses of their cells. -/
theorem renderConvertsEveryCell : Obligations.RenderConvertsEveryCell :=
  fun s _ hi hf =>
    ⟨fun hredraw => ⟨renderPass s.fb, step_render_of_redraw hi hf hredraw, renderPass_length s.fb,
      fun _ _ hr hc => renderPass_getElem? s hr hc⟩, step_render_of_no_redraw hi hf⟩

theorem step_render_clears_redraw {s : State} {rest : List Event} (hi : s.inputs = .render :: rest)
    (hf : s.fault = false) : ∃ out, step s = .next { s with inputs := rest, redraw := false, out := out } := by
  cases hredraw : s.redraw with
  | true => exact ⟨_, step_render_of_redraw hi hf hredraw⟩
  | false => exact ⟨{}, by rw [step_render_of_no_redraw hi hf hredraw, ← hredraw]⟩

/-- Settles O41: whatever the first `Render` finds, the second finds the flag clear. -/
theorem secondRenderMakesNoPass : Obligations.SecondRenderMakesNoPass := by
  intro s rest hi hf
  obtain ⟨out, hfirst⟩ := step_render_clears_redraw hi hf
  exact (runSteps_next hfirst).trans (runSteps_next (step_render_of_no_redraw rfl hf rfl))

/-! The colour mapper (R118). -/

/-- The scaling keeps to eight bits: the largest channel, 3, becomes 255. -/
theorem scaleChannel_toNat (c : BitVec 2) : (scaleChannel c).toNat = c.toNat * 255 / 3 := by
  have hc : c.toNat < 4 := c.isLt
  rw [scaleChannel, BitVec.toNat_ofNat]
  omega

/-- The three channels of a colour, by the bits 7:6, 5:4 and 3:2 of its byte. -/
theorem colorMap_channels (p : Byte) :
    (colorMap p).red.toNat = p.toNat / 64 * 255 / 3 ∧
      (colorMap p).green.toNat = p.toNat / 16 % 4 * 255 / 3 ∧
      (colorMap p).blue.toNat = p.toNat / 4 % 4 * 255 / 3 := by
  have hp : p.toNat < 256 := p.isLt
  have hred : p.toNat / 64 % 4 = p.toNat / 64 := Nat.mod_eq_of_lt (by omega)
  simp [colorMap, scaleChannel_toNat, Nat.shiftRight_eq_div_pow, hred]

theorem rgb_eq_iff_toNat (x y : Rgb) :
    x = y ↔ x.red.toNat = y.red.toNat ∧ x.green.toNat = y.green.toNat ∧ x.blue.toNat = y.blue.toNat := by
  cases x
  cases y
  simp [BitVec.toNat_inj]

/-- The scaling loses nothing, so equal colours have equal channels: the upper six bits, in pairs. -/
theorem colorMap_eq_iff (p q : Byte) : colorMap p = colorMap q ↔ p.toNat / 4 = q.toNat / 4 := by
  obtain ⟨hpr, hpg, hpb⟩ := colorMap_channels p
  obtain ⟨hqr, hqg, hqb⟩ := colorMap_channels q
  rw [rgb_eq_iff_toNat, hpr, hpg, hpb, hqr, hqg, hqb]
  omega

/-- Settles O42: the channels are read off, and together they are the upper six bits. -/
theorem colourMapScalesChannels : Obligations.ColourMapScalesChannels := ⟨colorMap_channels, colorMap_eq_iff⟩

end Sys2Proof.Machine

/-!
PROOFS. Exceptions and outputs (60_exceptions.md): the fatal condition is sticky, the writes of the two output pins
account for their registers, and the protocol state moves along the listed transitions only.
-/
namespace Sys2Proof.Machine

/-! The sticky fatal condition (60_exceptions.md R124). -/

/-- Settles O7: the fault gate leaves of an event only its receipt, with the byte it returns. -/
theorem faultedDeviceIgnoresEvents : Obligations.FaultedDeviceIgnoresEvents := by
  intro s e rest hi hf
  refine ⟨returnedByte s e, step_of_fault hi hf, ?_, fun hno => ?_⟩
  · rintro ⟨b, rfl⟩
    rfl
  · cases e with
    | byte b => exact absurd ⟨b, rfl⟩ hno
    | chipSelect a | clock l | reset r | render => rfl

/-! The writes of the output pins (60_exceptions.md R126, R127, R129). -/

/-- From `s` to `t` the output pins were written `ws`, in order, and each register has the last value written to it. -/
def DrivesPins (ws : List PinWrite) (s t : State) : Prop :=
  t.out.writes = s.out.writes ++ ws ∧ t.intn = intnAfter s.intn ws ∧ t.cdone = doneAfter s.cdone ws

/-- Every sequence of writes that one event can make; INTN has at most the busy pulse among them. -/
def eventWrites : List (List PinWrite) :=
  [[], [.intn .high], [.intn .low], [.intn .high, .intn .low], [.cdone true], [.cdone true, .intn .low],
    [.cdone false]]

/-- Between `s` and `t` lies one of the write sequences of an event. -/
def DrivesEvent (s t : State) : Prop := ∃ ws ∈ eventWrites, DrivesPins ws s t

theorem intnWrites_of_mem_eventWrites :
    ∀ ws ∈ eventWrites, intnWrites ws ∈ [[], [.high], [.low], [Level.high, .low]] := by decide

theorem drivesEvent_silent {s t : State} (hwrites : t.out.writes = s.out.writes) (hintn : t.intn = s.intn)
    (hdone : t.cdone = s.cdone) : DrivesEvent s t :=
  ⟨[], by decide, hwrites.trans (List.append_nil _).symm, hintn, hdone⟩

theorem drivesEvent_intn (l : Level) {s t : State} (hwrites : t.out.writes = s.out.writes ++ [.intn l])
    (hintn : t.intn = l) (hdone : t.cdone = s.cdone) : DrivesEvent s t :=
  ⟨[.intn l], by cases l <;> decide, hwrites, hintn, hdone⟩

theorem drivesEvent_done (d : Bool) {s t : State} (hwrites : t.out.writes = s.out.writes ++ [.cdone d])
    (hintn : t.intn = s.intn) (hdone : t.cdone = d) : DrivesEvent s t :=
  ⟨[.cdone d], by cases d <;> decide, hwrites, hintn, hdone⟩

theorem drivesPins_of_completedAtOnce {s t : State} {c : Byte} {ds : List Diag}
    (h : completedAtOnce s c ds = .next t) : DrivesPins [.intn .high, .intn .low] s t := by
  cases h
  exact ⟨rfl, rfl, rfl⟩

/-- The commands that complete at once write INTN high and then low (40_byte_dispatch.md R79, decision D31). -/
theorem exec_immediate_drivesPins {i : Instr} {b : Byte} {s t : State}
    (hi : i ∈ [.null, .displayOff, .displayOn, .unknown0 b, .unknown1 b, .frameEnd]) (h : exec i s = .next t) :
    DrivesPins [.intn .high, .intn .low] s t := by
  obtain ⟨hnull, hunknown0, hunknown1⟩ := nullAndUnknownComplete s b
  obtain ⟨hoff, hon⟩ := displayCommandsComplete s
  simp only [List.mem_cons, List.not_mem_nil, or_false] at hi
  obtain rfl | rfl | rfl | rfl | rfl | rfl := hi
  · exact drivesPins_of_completedAtOnce (hnull.symm.trans h)
  · exact drivesPins_of_completedAtOnce (hoff.symm.trans h)
  · exact drivesPins_of_completedAtOnce (hon.symm.trans h)
  · exact drivesPins_of_completedAtOnce (hunknown0.symm.trans h)
  · exact drivesPins_of_completedAtOnce (hunknown1.symm.trans h)
  · rw [frameEndMarksRedraw] at h
    cases h
    exact ⟨rfl, rfl, rfl⟩

/-- Settles O13: the busy pulse is all that such a command writes, and from low its first write is an edge too. -/
theorem immediateCommandEdges : Obligations.ImmediateCommandEdges := by
  intro i b s t hi hempty h
  obtain ⟨hwrites, -, -⟩ := exec_immediate_drivesPins hi h
  rw [hwrites, hempty]
  exact ⟨rfl, rfl⟩

theorem exec_drivesEvent {i : Instr} {s t : State} (h : exec i s = .next t) : DrivesEvent s t := by
  cases i with
  | null | displayOff | displayOn | frameEnd =>
    exact ⟨_, by decide, exec_immediate_drivesPins (b := 0x00#8) (by simp) h⟩
  | unknown0 b | unknown1 b => exact ⟨_, by decide, exec_immediate_drivesPins (b := b) (by simp) h⟩
  | setParameter | drawScene | frameBegin | frameData =>
    cases h
    exact drivesEvent_intn .high rfl rfl rfl
  | sceneBlack | sceneSplash | sceneUpdate | sceneError | sceneUnknown id =>
    cases h
    exact drivesEvent_intn .low rfl rfl rfl
  | programmingByte b =>
    rw [exec_programmingByte, hdrAppend_frame] at h
    cases h
    exact drivesEvent_silent rfl rfl rfl
  | paramByte b =>
    change execParamByte b s = _ at h
    obtain ⟨-, heq⟩ | ⟨-, heq⟩ := execParamByte_cases b s <;> rw [heq] at h <;> cases h
    · exact drivesEvent_intn .low rfl rfl rfl
    · exact drivesEvent_silent rfl rfl rfl
  | lineIndex c =>
    rw [exec_lineIndex] at h
    cases h
    exact drivesEvent_intn .high rfl rfl rfl
  | lineData b =>
    change execLineData b s = _ at h
    obtain ⟨-, heq⟩ | ⟨-, heq⟩ | ⟨-, -, heq⟩ | ⟨-, -, heq⟩ := execLineData_cases b s <;> rw [heq] at h <;> cases h
    · exact drivesEvent_intn .low rfl rfl rfl
    · exact drivesEvent_silent rfl rfl rfl
    · exact drivesEvent_silent rfl rfl rfl

theorem onByte_drivesEvent {b : Byte} {s t : State} (h : onByte b s = .next t) : DrivesEvent s t := by
  obtain ⟨-, heq⟩ | ⟨i, -, -, heq⟩ | ⟨-, -, heq⟩ | ⟨-, -, heq⟩ := onByte_cases b s <;> rw [heq] at h
  · cases h
    exact drivesEvent_silent rfl rfl rfl
  · exact exec_drivesEvent h
  · cases h
    exact drivesEvent_intn .high rfl rfl rfl
  · cases h
    obtain heq' | heq' | heq' := reinvoke_cases b s <;> rw [heq']
    · exact drivesEvent_intn .low rfl rfl rfl
    · exact drivesEvent_silent rfl rfl rfl
    · exact drivesEvent_intn .low rfl rfl rfl

theorem onChipSelect_drivesEvent (a : Bool) (s : State) : DrivesEvent s (onChipSelect a s) := by
  obtain ⟨-, heq⟩ | ⟨-, -, -, heq⟩ | ⟨-, -, heq⟩ := onChipSelect_cases a s <;> rw [heq]
  · exact drivesEvent_silent rfl rfl rfl
  · exact drivesEvent_intn .low rfl rfl rfl
  · exact drivesEvent_silent rfl rfl rfl

/-- The exit from Programming drives INTN after the clock event has driven DONE (44_signals.md R116). -/
theorem onClock_drivesEvent {l : Level} {s t : State} (h : onClock l s = .next t) : DrivesEvent s t := by
  obtain ⟨-, heq⟩ | ⟨-, heq⟩ | ⟨-, -, heq⟩ | ⟨-, -, heq⟩ := onClock_cases l s <;> rw [heq] at h
  · cases h
    exact drivesEvent_silent rfl rfl rfl
  · cases h
    exact drivesEvent_silent rfl rfl rfl
  · cases h
    exact drivesEvent_done true rfl rfl rfl
  · obtain ⟨-, heq'⟩ | ⟨-, heq'⟩ := leaveProgramming_cases
      (State.driveDone true { s with sclk := l, sclkCnt := s.sclkCnt + 1#6 }) <;> rw [heq'] at h
    · rw [classifyHeader_eq] at h
      cases h
      exact ⟨[.cdone true, .intn .low], by decide, List.append_assoc _ _ _, rfl, rfl⟩
    · cases h

theorem onReset_drivesEvent (r : Bool) (s : State) : DrivesEvent s (onReset r s) := by
  obtain ⟨-, heq⟩ | ⟨-, -, heq⟩ | ⟨-, -, heq⟩ := onReset_cases r s <;> rw [heq]
  · exact drivesEvent_silent rfl rfl rfl
  · exact drivesEvent_done false rfl rfl rfl
  · exact drivesEvent_intn .high rfl rfl rfl

theorem onRender_drivesEvent (s : State) : DrivesEvent s (onRender s) := by
  obtain ⟨-, heq⟩ | ⟨-, heq⟩ := onRender_cases s <;> rw [heq] <;> exact drivesEvent_silent rfl rfl rfl

theorem handle_drivesEvent {e : Event} {s t : State} (h : handle e s = .next t) : DrivesEvent s t := by
  cases e with
  | byte b => exact onByte_drivesEvent h
  | chipSelect a =>
    cases h
    exact onChipSelect_drivesEvent a s
  | clock l => exact onClock_drivesEvent h
  | reset r =>
    cases h
    exact onReset_drivesEvent r s
  | render =>
    cases h
    exact onRender_drivesEvent s

/-- An event starts with no writes, so those of the state it leaves are its own. -/
theorem step_drivesEvent {s t : State} {e : Event} {rest : List Event} (hi : s.inputs = e :: rest)
    (h : step s = .next t) : DrivesEvent (State.receive s e rest) t := by
  cases hf : s.fault with
  | true =>
    rw [step_of_fault hi hf] at h
    cases h
    exact drivesEvent_silent rfl rfl rfl
  | false =>
    rw [step_of_event hi hf] at h
    exact handle_drivesEvent h

/-- Settles O54: the writes are one of an event's sequences, and the registers are what the sequence leaves. -/
theorem outputsFollowWrites : Obligations.OutputsFollowWrites := by
  intro s t e rest hi h
  obtain ⟨ws, hmem, hwrites, hintn, hdone⟩ := step_drivesEvent hi h
  replace hwrites : t.out.writes = ws := hwrites
  rw [hwrites]
  exact ⟨hintn, hdone, intnWrites_of_mem_eventWrites ws hmem⟩

/-! The transitions of the protocol state (60_exceptions.md R133). -/

theorem transitionAllowed_refl (q : ProtocolState) (e : Event) : transitionAllowed q e q = true := by
  simp [transitionAllowed]

/-- An instruction moves from the state its byte arrives in to one that the table lists for it. -/
theorem exec_transitionAllowed {i : Instr} {s t : State} (b : Byte) (hst : i.arrivalState = s.state)
    (h : exec i s = .next t) : transitionAllowed s.state (.byte b) t.state = true := by
  cases i with
  | frameBegin =>
    cases h
    exact transitionAllowed_refl _ _
  | programmingByte b =>
    rw [exec_programmingByte, hdrAppend_frame] at h
    cases h
    exact transitionAllowed_refl _ _
  | paramByte b =>
    change execParamByte b s = _ at h
    obtain ⟨-, heq⟩ | ⟨-, heq⟩ := execParamByte_cases b s <;> rw [heq] at h <;> cases h
    · rw [← hst]
      rfl
    · exact transitionAllowed_refl _ _
  | lineIndex c =>
    rw [exec_lineIndex] at h
    cases h
    rw [← hst]
    rfl
  | lineData b =>
    change execLineData b s = _ at h
    obtain ⟨-, heq⟩ | ⟨-, heq⟩ | ⟨-, -, heq⟩ | ⟨-, -, heq⟩ := execLineData_cases b s <;> rw [heq] at h <;> cases h
    · rw [← hst]
      rfl
    · exact transitionAllowed_refl _ _
    · exact transitionAllowed_refl _ _
  | null | setParameter | displayOff | displayOn | drawScene | unknown0 c | frameData | frameEnd | unknown1 c
  | sceneBlack | sceneSplash | sceneUpdate | sceneError | sceneUnknown id =>
    cases h
    rw [← hst]
    rfl

/-- Under the invariant a scene byte finds DrawScene pending, so the executor is not re-invoked (10_state.md R36). -/
theorem decode_ne_sceneWithoutDrawScene {s : State} (hinv : Inv s) (b : Byte) :
    decode s.cfg s.mode b ≠ .error .sceneWithoutDrawScene := by
  intro hd
  obtain ⟨hst, hcmd⟩ := (decoderRejectsOnly s.cfg s.mode b).2.mp hd
  obtain ⟨-, hdraw⟩ := hinv.sceneMode hst
  rw [mode_cmd, hdraw] at hcmd
  exact hcmd (decodeSet0_drawScene hinv.params)

theorem onByte_transitionAllowed {b : Byte} {s t : State} (hinv : Inv s) (h : onByte b s = .next t) :
    transitionAllowed s.state (.byte b) t.state = true := by
  obtain ⟨-, heq⟩ | ⟨i, -, hd, heq⟩ | ⟨-, -, heq⟩ | ⟨-, hd, -⟩ := onByte_cases b s
  · rw [heq] at h
    cases h
    exact transitionAllowed_refl _ _
  · rw [heq] at h
    exact exec_transitionAllowed b (arrivalState_of_decode hd) h
  · rw [heq] at h
    cases h
    exact transitionAllowed_refl _ _
  · exact absurd hd (decode_ne_sceneWithoutDrawScene hinv b)

theorem onChipSelect_transitionAllowed (a : Bool) (s : State) :
    transitionAllowed s.state (.chipSelect a) (onChipSelect a s).state = true := by
  obtain ⟨-, heq⟩ | ⟨rfl, -, hst, heq⟩ | ⟨-, -, heq⟩ := onChipSelect_cases a s <;> rw [heq]
  · exact transitionAllowed_refl _ _
  · simp [transitionAllowed, hst]
  · exact transitionAllowed_refl _ _

theorem onClock_transitionAllowed {l : Level} {s t : State} (h : onClock l s = .next t) :
    transitionAllowed s.state (.clock l) t.state = true := by
  obtain ⟨-, heq⟩ | ⟨-, heq⟩ | ⟨-, -, heq⟩ | ⟨⟨hrise, -, -⟩, hst, heq⟩ := onClock_cases l s <;> rw [heq] at h
  · cases h
    exact transitionAllowed_refl _ _
  · cases h
    exact transitionAllowed_refl _ _
  · cases h
    exact transitionAllowed_refl _ _
  · obtain ⟨-, rfl⟩ := rising_iff.mp hrise
    obtain ⟨-, heq'⟩ | ⟨-, heq'⟩ := leaveProgramming_cases
      (State.driveDone true { s with sclk := .high, sclkCnt := s.sclkCnt + 1#6 }) <;> rw [heq'] at h
    · rw [classifyHeader_eq] at h
      cases h
      rw [hst]
      rfl
    · cases h

theorem onReset_transitionAllowed (r : Bool) (s : State) :
    transitionAllowed s.state (.reset r) (onReset r s).state = true := by
  obtain ⟨-, heq⟩ | ⟨-, -, heq⟩ | ⟨rfl, -, heq⟩ := onReset_cases r s <;> rw [heq]
  · exact transitionAllowed_refl _ _
  · exact transitionAllowed_refl _ _
  · simp [transitionAllowed, resetReleased]

theorem handle_transitionAllowed {e : Event} {s t : State} (hinv : Inv s) (h : handle e s = .next t) :
    transitionAllowed s.state e t.state = true := by
  cases e with
  | byte b => exact onByte_transitionAllowed hinv h
  | chipSelect a =>
    cases h
    exact onChipSelect_transitionAllowed a s
  | clock l => exact onClock_transitionAllowed h
  | reset r =>
    cases h
    exact onReset_transitionAllowed r s
  | render =>
    cases h
    rw [onRender_frame]
    exact transitionAllowed_refl _ _

/-- Settles O53: with the invariant nothing has faulted, and each event's handling moves as the table says. -/
theorem transitionsAreListed : Obligations.TransitionsAreListed := by
  intro s t e rest hinv hi h
  rw [step_of_event hi hinv.noFault] at h
  exact handle_transitionAllowed (s := State.receive s e rest) (inv_receive hinv e rest) h

end Sys2Proof.Machine

/-!
PROOFS. The reset events (70_reset_and_hazards.md): what each edge writes, that a repeated level writes nothing, and
the state that a complete pulse leaves.
-/
namespace Sys2Proof.Machine

/-! The two edges and the repeated level, on the handler. -/

theorem onReset_assert {s : State} (hrst : s.rst = false) :
    onReset true s =
      { s with rst := true, cdone := false, out := { s.out with writes := s.out.writes ++ [.cdone false] } } := by
  obtain ⟨hno, -⟩ | ⟨-, -, heq⟩ | ⟨hno, -⟩ := onReset_cases true s
  · simp [hrst] at hno
  · exact heq
  · simp at hno

/-- The release edge writes out the reset state; what it keeps is R141's. -/
theorem resetReleased_eq (s : State) :
    resetReleased s =
      { s with
        rst := false, intn := .high, sclkCnt := 0#6, state := .programming, hdrLen := 0#9, cmdset := .unknown
        cmd := 0x00#8, param := 0#32, paramOff := 0#2, scene := 0x00#8, col := 0x00#8, row := 0
        out := { s.out with writes := s.out.writes ++ [.intn .high] } } := rfl

theorem onReset_noEdge {r : Bool} {s : State} (hrst : s.rst = r) : onReset r s = s := by
  obtain ⟨-, heq⟩ | ⟨rfl, hno, -⟩ | ⟨rfl, hno, -⟩ := onReset_cases r s
  · exact heq
  · simp [hrst] at hno
  · simp [hrst] at hno

/-- A reset event reaches its handler from every protocol state, whatever the chip-select. -/
theorem step_of_reset {s : State} {r : Bool} {rest : List Event} (hi : s.inputs = .reset r :: rest)
    (hf : s.fault = false) : step s = .next (onReset r (State.receive s (.reset r) rest)) :=
  step_of_event hi hf

/-! The steps. -/

/-- Settles O35: with reset released, the event is the assert edge. -/
theorem resetAssertEdge : Obligations.ResetAssertEdge := by
  intro s rest hi hf hrst
  rw [step_of_reset hi hf, onReset_assert (s := State.receive ..) hrst]
  rfl

/-- Settles O36: with reset asserted, the event is the release edge. -/
theorem resetReleaseEdge : Obligations.ResetReleaseEdge := by
  intro s rest hi hf hrst
  rw [step_of_reset hi hf, onReset_release (s := State.receive ..) hrst, resetReleased_eq]
  rfl

/-- Settles O37: without an edge only the event is taken. -/
theorem resetWithoutEdge : Obligations.ResetWithoutEdge := by
  intro s r rest hi hf hrst
  rw [step_of_reset hi hf, onReset_noEdge (s := State.receive ..) hrst]
  rfl

/-- Settles O38: the assert edge leaves the fault flag clear and reset asserted, so the release edge follows it. -/
theorem resetPulse : Obligations.ResetPulse := by
  intro s rest hi hf hrst
  have hassert := resetAssertEdge s (.reset false :: rest) hi hf hrst
  exact (runSteps_next hassert).trans (runSteps_next (resetReleaseEdge _ rest rfl hf rfl))

end Sys2Proof.Machine
